-- ==== Sys2Proof/Word.lean ====
section
/-! DEFINITION. The word types of the machine (00_scope.md R8: every value is unsigned). -/

namespace Sys2Proof

/-- A byte: a general register, a timer, a memory cell, the immediate `kk` (R16, R29, R39, R57). -/
abbrev Byte := BitVec 8

/-- A 16-bit word: an instruction word, PC, I, a stack entry (R19, R24, R25, R57). -/
abbrev Word := BitVec 16

/-- The 12-bit address field `nnn` of an instruction word (R57). -/
abbrev Addr12 := BitVec 12

/-- A 4-bit field of an instruction word: a register index `x` or `y`, or the sprite height `n` (R57). -/
abbrev Nibble := BitVec 4

/-- The index of a general register, V0 to VF (R16): every value of the field is in range. -/
abbrev RegIdx := BitVec 4

/-- The index of a key, 0 to 15 (R31). -/
abbrev KeyIdx := Fin 16

end Sys2Proof
end

