-- ==== Sys2Proof/Syntax.lean ====
section
/-! DEFINITION. The instructions: one constructor per row of spec/opcode_table.json (34 rows, no alias),
in the table's order, with the fields that 30_encoding.md R58 gives each shape. -/

namespace Sys2Proof

/-- The 34 instructions (30_encoding.md R63 to R68). `x` and `y` are register indices, `kk` an unsigned
byte, `nnn` an unsigned 12-bit address, `n` a sprite height (R59). -/
inductive Instr where
  /-- `00E0` CLS: clear the display (R75). -/
  | cls
  /-- `00EE` RET: return from subroutine (R77). -/
  | ret
  /-- `1nnn` JP addr (R78). -/
  | jp (nnn : Addr12)
  /-- `2nnn` CALL addr (R79). -/
  | call (nnn : Addr12)
  /-- `3xkk` SE Vx, byte (R80). -/
  | seImm (x : RegIdx) (kk : Byte)
  /-- `4xkk` SNE Vx, byte (R81). -/
  | sneImm (x : RegIdx) (kk : Byte)
  /-- `5xy0` SE Vx, Vy (R82). -/
  | seReg (x y : RegIdx)
  /-- `6xkk` LD Vx, byte (R86). -/
  | ldImm (x : RegIdx) (kk : Byte)
  /-- `7xkk` ADD Vx, byte (R87). -/
  | addImm (x : RegIdx) (kk : Byte)
  /-- `8xy0` LD Vx, Vy (R88). -/
  | ldReg (x y : RegIdx)
  /-- `8xy1` OR Vx, Vy (R89). -/
  | or (x y : RegIdx)
  /-- `8xy2` AND Vx, Vy (R90). -/
  | and (x y : RegIdx)
  /-- `8xy3` XOR Vx, Vy (R91). -/
  | xor (x y : RegIdx)
  /-- `8xy4` ADD Vx, Vy (R92). -/
  | addReg (x y : RegIdx)
  /-- `8xy5` SUB Vx, Vy (R93). -/
  | sub (x y : RegIdx)
  /-- `8xy6` SHR Vx: `y` is encoded and not read (R58, R94). -/
  | shr (x y : RegIdx)
  /-- `8xy7` SUBN Vx, Vy (R95). -/
  | subn (x y : RegIdx)
  /-- `8xyE` SHL Vx: `y` is encoded and not read (R58, R96). -/
  | shl (x y : RegIdx)
  /-- `9xy0` SNE Vx, Vy (R83). -/
  | sneReg (x y : RegIdx)
  /-- `Annn` LD I, addr (R99). -/
  | ldI (nnn : Addr12)
  /-- `Bnnn` JP V0, addr (R84). -/
  | jpV0 (nnn : Addr12)
  /-- `Cxkk` RND Vx, byte (R97). -/
  | rnd (x : RegIdx) (kk : Byte)
  /-- `Dxyn` DRW Vx, Vy, nibble (R76). -/
  | drw (x y : RegIdx) (n : Nibble)
  /-- `Ex9E` SKP Vx (R105). -/
  | skp (x : RegIdx)
  /-- `ExA1` SKNP Vx (R106). -/
  | sknp (x : RegIdx)
  /-- `Fx07` LD Vx, DT (R107). -/
  | ldVxDt (x : RegIdx)
  /-- `Fx0A` LD Vx, K (R108). -/
  | ldVxK (x : RegIdx)
  /-- `Fx15` LD DT, Vx (R109). -/
  | ldDtVx (x : RegIdx)
  /-- `Fx18` LD ST, Vx (R110). -/
  | ldStVx (x : RegIdx)
  /-- `Fx1E` ADD I, Vx (R100). -/
  | addI (x : RegIdx)
  /-- `Fx29` LD F, Vx (R101). -/
  | ldF (x : RegIdx)
  /-- `Fx33` LD B, Vx (R102). -/
  | ldB (x : RegIdx)
  /-- `Fx55` LD [I], Vx (R103). -/
  | ldMemVx (x : RegIdx)
  /-- `Fx65` LD Vx, [I] (R104). -/
  | ldVxMem (x : RegIdx)
  deriving DecidableEq, Repr

end Sys2Proof
end

