-- ==== Sys2Proof/Config.lean ====
section
/-! DEFINITION. What an implementation fixes (00_scope.md R6) and the one free value of the spec
(the random byte, 60_exceptions.md R125). The default settings stand in Machine/ResetValues.lean. -/

namespace Sys2Proof

/-- `STACK_MODE` (00_scope.md R6, 10_state.md R26 to R28). -/
inductive StackMode where
  /-- An overflow or underflow of the call stack halts the core. -/
  | fault
  /-- SP is a 4-bit counter that wraps. -/
  | wrap
  deriving DecidableEq, Repr

/-- The parameters that a step reads (00_scope.md R3, R6): fixed for a whole run.
DESIGN CHOICE (log 1, safe): State holds them, so that a claim speaks of every setting. -/
structure Params where
  /-- `STACK_MODE`. -/
  stackMode : StackMode
  /-- `INDEX_ADVANCE`: Fx55 and Fx65 move I past the range (R103, R104). -/
  indexAdvance : Bool
  /-- `TICK_DURING_WAIT`: a wait cycle of Fx0A ticks the timers (R108, R121). -/
  tickDuringWait : Bool
  deriving DecidableEq, Repr

/-- All five parameters of 00_scope.md R6: those a step reads, the font table that reset copies
(20_memory.md R46, 70_reset_and_hazards.md R131), and the rate, which no rule reads (R6, R122; log 17). -/
structure Setup where
  /-- `STACK_MODE`, `INDEX_ADVANCE`, `TICK_DURING_WAIT`. -/
  params : Params
  /-- `FONT`: sixteen glyphs of five bytes. -/
  font : Vector Byte 80
  /-- `RATE`, in cycles per second: a positive integer, and no rule depends on it. -/
  rate : Nat
  deriving DecidableEq, Repr

/-- `RandomByte()` (60_exceptions.md R125): the byte the host's random source gives at the k-th draw.
A FREE VALUE (log 2, safe): it has no body, so every claim holds for every byte. -/
opaque Config.randomByte (draw : Nat) : Byte

end Sys2Proof
end

