-- ==== Sys2Proof/WellFormed.lean ====
section
/-! DEFINITION. What makes an instruction, a set-up and a program image well-formed. -/

namespace Sys2Proof

/-- Every term of `Instr` is well-formed: each field has exactly the width of its field in the word
(30_encoding.md R57, R59), and no value of a field is reserved (R70; 10_state.md R16: every register
index an instruction can spell is in range). So this check refuses nothing (log 20). -/
def Instr.WellFormed (_ : Instr) : Bool := true

/-- `MAX_IMAGE` (00_scope.md R6): the bytes from 0x200 to 0xFFF. -/
def maxImage : Nat := 3584

/-- An image that the load accepts: at most 3584 bytes, the empty one included (20_memory.md R51). -/
def imageFits (bytes : List Byte) : Bool := bytes.length ≤ maxImage

/-- A set-up is well-formed when its rate is positive (00_scope.md R6; 60_exceptions.md R122). The
font's 80 bytes are in its type. -/
def Setup.WellFormed (c : Setup) : Bool := 0 < c.rate

end Sys2Proof
end

