-- ==== Sys2Proof/Machine/Flags.lean ====
section
/-! DEFINITION. The values that instructions write to VF, the flag register (10_state.md R17, R22;
42_alu.md R92 to R98; 43_index_memory.md R100). -/

namespace Sys2Proof.Machine

/-- A flag as the byte written to VF: 1 or 0. -/
def flagByte (b : Bool) : Byte := if b then 1 else 0

/-- Carry of an 8-bit add: the unsigned sum is above 255 (42_alu.md R92). -/
def carry8 (a b : Byte) : Bool := 255 < a.toNat + b.toNat

/-- "No borrow" of `a - b`: a is strictly greater (42_alu.md R93, R95). -/
def noBorrow (a b : Byte) : Bool := b.toNat < a.toNat

/-- The bit a right shift drops: the old bit 0 (42_alu.md R94). -/
def oldBit0 (a : Byte) : Bool := a.getLsbD 0

/-- The bit a left shift drops: the old bit 7 (42_alu.md R96). -/
def oldBit7 (a : Byte) : Bool := a.getLsbD 7

/-- Carry of `I + Vx` out of 16 bits (43_index_memory.md R100, 90_conflicts.md C8). -/
def carry16 (i : Word) (b : Byte) : Bool := 0xFFFF < i.toNat + b.toNat

end Sys2Proof.Machine
end

