-- ==== Sys2Proof/Machine/ResetValues.lean ====
section
/-! DEFINITION. The default set-up (00_scope.md R6, 20_memory.md R46) and the values reset leaves
(10_state.md R38, 70_reset_and_hazards.md R131), each under a name of its own. -/

namespace Sys2Proof.Machine

/-- The defaults of 00_scope.md R6 for the parameters a step reads (decisions D3, D4, D10; log 8). -/
def defaultParams : Params :=
  { stackMode := .fault, indexAdvance := false, tickDuringWait := true }

/-- The default font, glyph by glyph: the table of 20_memory.md R46 (decision D16; log 4). -/
def defaultFontBytes : List Byte :=
  [0xF0, 0x90, 0x90, 0x90, 0xF0] ++ [0x20, 0x60, 0x20, 0x20, 0x70] ++
  [0xF0, 0x10, 0xF0, 0x80, 0xF0] ++ [0xF0, 0x10, 0xF0, 0x10, 0xF0] ++
  [0x90, 0x90, 0xF0, 0x10, 0x10] ++ [0xF0, 0x80, 0xF0, 0x10, 0xF0] ++
  [0xF0, 0x80, 0xF0, 0x90, 0xF0] ++ [0xF0, 0x10, 0x20, 0x40, 0x40] ++
  [0xF0, 0x90, 0xF0, 0x90, 0xF0] ++ [0xF0, 0x90, 0xF0, 0x10, 0xF0] ++
  [0xF0, 0x90, 0xF0, 0x90, 0x90] ++ [0xE0, 0x90, 0xE0, 0x90, 0xE0] ++
  [0xF0, 0x80, 0x80, 0x80, 0xF0] ++ [0xE0, 0x90, 0x90, 0x90, 0xE0] ++
  [0xF0, 0x80, 0xF0, 0x80, 0xF0] ++ [0xF0, 0x80, 0xF0, 0x80, 0x80]

/-- `FONT` at its default (20_memory.md R46). -/
def defaultFont : Vector Byte 80 := Vector.ofFn fun k => defaultFontBytes.getD k 0

/-- The default of every parameter (00_scope.md R6); RATE's default is 540. -/
def defaultSetup : Setup := { params := defaultParams, font := defaultFont, rate := 540 }

/-- What an address that the memory list does not name reads as: the reset content of that address,
the default font at 0x000 to 0x04F and 0 elsewhere (10_state.md R38, 20_memory.md R45; log 5). -/
def resetByte (a : Nat) : Byte := defaultFontBytes.getD a 0

/-- The display buffer `DISP[px][py]`, px in 0..63, py in 0..31 (10_state.md R30). -/
abbrev Display := Vector (Vector Bool 32) 64

/-- "registers zeroed" (10_state.md R38). -/
def resetV : Vector Byte 16 := Vector.replicate 16 0

/-- "PC=0x200": PROGRAM_BASE (10_state.md R19, R38; 00_scope.md R6). -/
def resetPc : Word := 0x200

/-- The stack entries after reset (10_state.md R38, decision D15; log 9). -/
def resetStack : Vector Word 16 := Vector.replicate 16 0

/-- Both timers after reset (10_state.md R29, R38, decision D15; log 9). -/
def resetTimer : Byte := 0

/-- A display with no pixel set: after reset (10_state.md R30, R38, decision D15; log 9) and after CLS. -/
def clearDisplay : Display := Vector.replicate 64 (Vector.replicate 32 false)

/-- The keypad after reset: every key up (10_state.md R31, R38, decision D15; log 9). -/
def resetKeys : Vector Bool 16 := Vector.replicate 16 false

/-- The latch after reset (10_state.md R32, R38, decision D15; log 9). -/
def resetLatch : Option KeyIdx := none

end Sys2Proof.Machine
end

