-- ==== Sys2Proof/Machine/Memory.lean ====
section
/-! DEFINITION. The memory `MEM` (20_memory.md R39 to R44): 4096 bytes, held as the canonical list of
the addresses that differ from their reset content. -/

namespace Sys2Proof.Machine

/-- `MEM` as (address, byte) pairs: addresses strictly rising, below 4096, and no entry equal to what
an unlisted address reads as (`resetByte`). -/
abbrev Memory := List Host.Cell

/-- `a & 0xFFF` (20_memory.md R40): every address is reduced to 12 bits before use. -/
def maskAddr (a : Nat) : Nat := a % 4096

/-- The byte the list gives an address, if it lists it. -/
def Memory.lookup : Memory → Nat → Option Byte
  | [], _ => none
  | c :: m, a => if c.1 = a then some c.2 else Memory.lookup m a

/-- The list with an entry for an address, in its place. -/
def Memory.insert : Memory → Nat → Byte → Memory
  | [], a, b => [(a, b)]
  | c :: m, a, b =>
    if a < c.1 then (a, b) :: c :: m
    else if a = c.1 then (a, b) :: m
    else c :: Memory.insert m a b

/-- The list without an address. -/
def Memory.erase : Memory → Nat → Memory
  | [], _ => []
  | c :: m, a => if c.1 = a then Memory.erase m a else c :: Memory.erase m a

/-- `MemRead(a, 1)`: `MEM[a & 0xFFF]`, for any natural number a (20_memory.md R40, 00_scope.md R10). -/
def Memory.read (m : Memory) (a : Nat) : Byte :=
  (m.lookup (maskAddr a)).getD (resetByte (maskAddr a))

/-- `MemWrite(a, 1, b)`: `MEM[a & 0xFFF] <- b` (20_memory.md R40, 00_scope.md R10). Writing the reset
content removes the entry, so equal memories are equal lists. -/
def Memory.write (m : Memory) (a : Nat) (b : Byte) : Memory :=
  if b = resetByte (maskAddr a) then m.erase (maskAddr a) else m.insert (maskAddr a) b

/-- The writes `MEM[a + k] <- bs[k]`, in increasing k (20_memory.md R49). -/
def Memory.writeAll : Memory → Nat → List Byte → Memory
  | m, _, [] => m
  | m, a, b :: bs => Memory.writeAll (m.write a b) (a + 1) bs

/-- The canonical form. -/
abbrev Memory.wf (m : Memory) : Prop :=
  m.Pairwise (fun c d => c.1 < d.1) ∧ ∀ c ∈ m, c.1 < 4096 ∧ c.2 ≠ resetByte c.1

end Sys2Proof.Machine
end

