-- ==== Sys2Proof/Machine/State.lean ====
section
/-! DEFINITION. The machine's state (10_state.md R15), its outcomes' reasons, and the state after reset
(10_state.md R38, 70_reset_and_hazards.md R131). -/

namespace Sys2Proof.Machine

/-- The fatal conditions of 60_exceptions.md R112 that a cycle can raise. -/
inductive FaultCause where
  /-- Code 1, raised by CALL: "call depth > 16" (R27). -/
  | stackOverflow
  /-- Code 2, raised by RET: "return with empty stack" (R28). -/
  | stackUnderflow
  /-- Code 3, raised by SKP and SKNP: Vx > 15 (R105, R106). -/
  | keyIndexRange
  deriving DecidableEq, Repr

/-- `MODE` (10_state.md R35, 60_exceptions.md R113). -/
inductive Mode where
  /-- The core takes cycles. -/
  | running
  /-- The core takes no further cycle: the cause, and the fetch address A of the faulting instruction. -/
  | halted (cause : FaultCause) (addr : Word)
  deriving DecidableEq, Repr

/-- A condition that a cycle reports on the diagnostic output (60_exceptions.md R112, R117). -/
inductive Condition where
  /-- Code 0, the warning of an unrecognized word (30_encoding.md R69). -/
  | unrecognizedInstruction
  /-- Codes 1 to 3, the fatal faults. -/
  | fatal (cause : FaultCause)
  deriving DecidableEq, Repr

/-- One record `(code, A, w)` of the diagnostic output (60_exceptions.md R117). -/
structure Diag where
  /-- The condition; its number is `Condition.code` (Machine/Ops.lean). -/
  cond : Condition
  /-- A, the fetch address. -/
  addr : Word
  /-- w, the instruction word. -/
  word : Word
  deriving DecidableEq, Repr

/-- The state of the core: the tuple of 10_state.md R15, and after it the model's own three fields
(log 1, 2, 3). -/
structure State where
  /-- V0 to VF (R16, R17). -/
  v : Vector Byte 16
  /-- I, the index register (R24). -/
  i : Word
  /-- PC, stored unmasked (R19). -/
  pc : Word
  /-- SP, the count of entries in use: 0..16 (Fault), 0..15 (Wrap) (R26, 90_conflicts.md C1). -/
  sp : Fin 17
  /-- STACK[0..15] (R25). -/
  stack : Vector Word 16
  /-- DT, the delay timer (R29). -/
  dt : Byte
  /-- ST, the sound timer (R29). -/
  st : Byte
  /-- MEM (R36, 20_memory.md R39). -/
  mem : Memory
  /-- DISP (R30). -/
  disp : Display
  /-- KEY[0..15]: true is down (R31). -/
  key : Vector Bool 16
  /-- LATCH (R32). -/
  latch : Option KeyIdx
  /-- MODE (R35). -/
  mode : Mode
  /-- The parameters of the run (00_scope.md R6): no step and no host move writes them. The model's own
  field (log 1). -/
  params : Params
  /-- How many random bytes have been drawn (60_exceptions.md R125): the index of the next free value.
  The model's own field (log 2). -/
  draws : Nat
  /-- The diagnostic output so far, oldest first (60_exceptions.md R117): written, never read by an
  instruction. The model's own field (log 3). -/
  diag : List Diag
  deriving DecidableEq, Repr

/-- Why a step answers no next state. -/
inductive Fault where
  /-- Raised by `step` alone, in the Halted mode: the core has no step (30_encoding.md R62, 10_state.md
  R35). Safe: the machine has no cycle to take. The cycle that raised the fault was a next state. -/
  | halted (cause : FaultCause) (addr : Word)
  deriving DecidableEq, Repr

/-- Why an instruction has no meaning. -/
inductive Refusal where
  /-- Raised by an arm of `exec` that gives its instruction no meaning yet: none is left. Safe. -/
  | notModelled (mnemonic : String)
  deriving DecidableEq, Repr

/-- The state right after reset at the default parameters (10_state.md R38, 70_reset_and_hazards.md
R131), before the image load: memory holds the font and zeros, so its list is empty. -/
def State.reset : State where
  v := resetV
  i := 0
  pc := resetPc
  sp := 0
  stack := resetStack
  dt := resetTimer
  st := resetTimer
  mem := []
  disp := clearDisplay
  key := resetKeys
  latch := resetLatch
  mode := .running
  params := defaultParams
  draws := 0
  diag := []

end Sys2Proof.Machine
end

