-- ==== Sys2Proof/Machine/Operands.lean ====
section
/-! DEFINITION. The operand forms (30_encoding.md R58, R59; 43_index_memory.md opening): registers,
immediates, the index-relative address, key indices, sprite bits and decimal digits. -/

namespace Sys2Proof.Machine

/-- Reads `V[x]` (10_state.md R16). -/
def State.getV (s : State) (x : RegIdx) : Byte := s.v[x.toNat]'x.isLt

/-- `zext_16(nnn)` (30_encoding.md R59). -/
def zext16 (nnn : Addr12) : Word := nnn.setWidth 16

/-- A byte as a 16-bit operand (43_index_memory.md R100, 41_control_flow.md R84). -/
def byteToWord (b : Byte) : Word := b.setWidth 16

/-- The address `I + k` of an index-relative access, before its mask (20_memory.md R41). -/
def State.indexAddr (s : State) (k : Nat) : Nat := s.i.toNat + k

/-- The key a register names, if it is in 0..15 (44_timers_input.md R105, R106). -/
def keyIndex (b : Byte) : Option KeyIdx :=
  if h : b.toNat < 16 then some ⟨b.toNat, h⟩ else none

/-- A key index as the byte that Fx0A loads (44_timers_input.md R108). -/
def keyByte (k : KeyIdx) : Byte := BitVec.ofNat 8 k.val

/-- Bit position b of a sprite row: b = 0 is bit 7, the leftmost pixel (40_display.md R74, decision D7;
log 13). -/
def spriteBit (row : Byte) (b : Nat) : Bool := row.getMsbD b

/-- `(n) mod 64`, a column of the display (40_display.md R74). -/
def wrapX (n : Nat) : Fin 64 := ⟨n % 64, Nat.mod_lt _ (by decide)⟩

/-- `(n) mod 32`, a row of the display (40_display.md R74). -/
def wrapY (n : Nat) : Fin 32 := ⟨n % 32, Nat.mod_lt _ (by decide)⟩

/-- The three decimal digits of a byte: hundreds, tens, ones (43_index_memory.md R102). -/
def decimalDigits (b : Byte) : List Byte :=
  [BitVec.ofNat 8 (b.toNat / 100), BitVec.ofNat 8 (b.toNat / 10 % 10), BitVec.ofNat 8 (b.toNat % 10)]

/-- The bytes V0 to Vx, in order (43_index_memory.md R103). -/
def State.regsUpTo (s : State) (x : RegIdx) : List Byte := s.v.toList.take (x.toNat + 1)

end Sys2Proof.Machine
end

