-- ==== Sys2Proof/Machine/Ops.lean ====
section
/-! DEFINITION. The named operations over registers, the stack, the latch, the timers and the
diagnostic output, and the one way a fault is taken (60_exceptions.md R113). The spec has no return from
a fault: Halted is final (60_exceptions.md R119). -/

namespace Sys2Proof.Machine

/-- `V[x] <- b` (00_scope.md R9). -/
def State.setV (s : State) (x : RegIdx) (b : Byte) : State :=
  { s with v := s.v.set x.toNat b x.isLt }

/-- VF, the flag register (10_state.md R17). -/
def vf : RegIdx := 0xF

/-- A result to Vx and then a flag to VF, the flag last (42_alu.md R85, decision D5; log 12). -/
def State.setResultFlag (s : State) (x : RegIdx) (result : Byte) (flag : Bool) : State :=
  (s.setV x result).setV vf (flagByte flag)

/-- `I <- w`. -/
def State.setI (s : State) (w : Word) : State := { s with i := w }

/-- `PC <- target`. -/
def State.setPc (s : State) (w : Word) : State := { s with pc := w }

/-- `DT <- b`. -/
def State.setDt (s : State) (b : Byte) : State := { s with dt := b }

/-- `ST <- b`. -/
def State.setSt (s : State) (b : Byte) : State := { s with st := b }

/-- The memory after the writes `MEM[a + k] <- bs[k]` (20_memory.md R40, R41). -/
def State.memWrite (s : State) (a : Nat) (bs : List Byte) : State :=
  { s with mem := s.mem.writeAll a bs }

/-- `if c: PC <- (PC + 2) mod 2^16` (10_state.md R20, 41_control_flow.md R80). -/
def State.skipIf (s : State) (c : Bool) : State := if c then s.setPc (s.pc + 2) else s

/-- A, the fetch address of the instruction in execution: PC holds `(A + 2) mod 2^16` throughout the
execute phase (10_state.md R20). -/
def State.fetchAddr (s : State) : Word := s.pc - 2

/-- `raise Fault(cause, A)` (60_exceptions.md R113): MODE becomes Halted(cause, A) and nothing else is
written; PC stays A + 2 (decision D13; log 14). The cycle reports the record and skips the tick (Machine/Cycle.lean). -/
def State.takeFault (s : State) (cause : FaultCause) : State :=
  { s with mode := .halted cause s.fetchAddr }

/-- The state after an instruction that may raise a fault: a raised fault is taken in the state the
instruction started from, since it writes nothing (60_exceptions.md R113). -/
def State.orFault (s : State) : Except FaultCause State → State
  | .ok t => t
  | .error cause => s.takeFault cause

/-- STACK[j] <- w, for j in 0..15. -/
def State.setStack (s : State) (j : Fin 16) (w : Word) : State :=
  { s with stack := s.stack.set j.val w j.isLt }

/-- STACK[j]. -/
def State.getStack (s : State) (j : Fin 16) : Word := s.stack[j.val]'j.isLt

/-- `n mod 16`, an index of the stack in the Wrap mode (10_state.md R27, R28; log 16). -/
def wrapStack (n : Nat) : Fin 16 := ⟨n % 16, Nat.mod_lt _ (by decide)⟩

/-- `SP <- n mod 16` (10_state.md R27, R28, Wrap mode). -/
def wrapSp (n : Nat) : Fin 17 := ⟨n % 16, by omega⟩

/-- `Push(w)` (10_state.md R27). -/
def State.push (s : State) (w : Word) : Except FaultCause State :=
  match s.params.stackMode with
  | .fault =>
    if h : s.sp.val < 16 then
      .ok { s.setStack ⟨s.sp.val, h⟩ w with sp := ⟨s.sp.val + 1, by omega⟩ }
    else .error .stackOverflow
  | .wrap => .ok { s.setStack (wrapStack s.sp.val) w with sp := wrapSp (s.sp.val + 1) }

/-- `Pop()` (10_state.md R28): the popped word and the state after. The entry keeps its value. -/
def State.pop (s : State) : Except FaultCause (Word × State) :=
  match s.params.stackMode with
  | .fault =>
    if s.sp.val = 0 then .error .stackUnderflow
    else .ok (s.getStack ⟨s.sp.val - 1, by omega⟩, { s with sp := ⟨s.sp.val - 1, by omega⟩ })
  | .wrap =>
    .ok (s.getStack (wrapStack (s.sp.val + 15)), { s with sp := wrapSp (s.sp.val + 15) })

/-- `TakeLatch()` (10_state.md R34): what the latch held, and the state with the latch empty. -/
def State.takeLatch (s : State) : Option KeyIdx × State := (s.latch, { s with latch := none })

/-- KEY[k] (10_state.md R31). -/
def State.getKey (s : State) (k : KeyIdx) : Bool := s.key[k.val]'k.isLt

/-- `draw RandomByte()` (00_scope.md R10, 60_exceptions.md R125): the free byte, and the state in which
one more byte has been drawn. -/
def State.drawByte (s : State) : Byte × State :=
  (Config.randomByte s.draws, { s with draws := s.draws + 1 })

/-- A timer one tick later: toward zero and never past it (60_exceptions.md R121). -/
def tickByte (b : Byte) : Byte := if b = 0 then 0 else b - 1

/-- `Tick()` (60_exceptions.md R121). -/
def State.tick (s : State) : State := { s with dt := tickByte s.dt, st := tickByte s.st }

/-- `report Diag(cond, (A, w))` (60_exceptions.md R117). -/
def State.report (s : State) (cond : Condition) (addr word : Word) : State :=
  { s with diag := s.diag ++ [⟨cond, addr, word⟩] }

/-- The codes of 60_exceptions.md R112. -/
def Condition.code : Condition → Nat
  | .unrecognizedInstruction => 0
  | .fatal .stackOverflow => 1
  | .fatal .stackUnderflow => 2
  | .fatal .keyIndexRange => 3

end Sys2Proof.Machine
end

