-- ==== Sys2Proof/Machine/Cycle.lean ====
section
/-! DEFINITION. What surrounds the execute phase in one cycle (30_encoding.md R60 to R62, R69;
60_exceptions.md R113, R121): fetch, the increment of PC, the unrecognized word, the end of the cycle. -/

namespace Sys2Proof.Machine

/-- `Fetch()` (30_encoding.md R60): the word at PC, big-endian, each byte's address masked to 12 bits. -/
def State.fetch (s : State) : Word :=
  wordOfBytes (s.mem.read s.pc.toNat) (s.mem.read (s.pc.toNat + 1))

/-- `PC <- (A + 2) mod 2^16`, before execution (30_encoding.md R61). -/
def State.beginCycle (s : State) : State := s.setPc (s.pc + 2)

/-- The whole cycle of an unrecognized word (30_encoding.md R69, decision D14; log 10): PC has advanced, the record (0, A, w)
is reported, the timers tick, and nothing else changes. -/
def State.unrecognizedCycle (s : State) : State :=
  (s.beginCycle.report .unrecognizedInstruction s.pc s.fetch).tick

/-- The instruction is Fx0A, the one that can wait (44_timers_input.md R108). -/
def isWaitKey : Instr → Bool
  | .ldVxK _ => true
  | _ => false

/-- The end of a cycle that began in `s`, executed `i` and left `t` (30_encoding.md R62): a fault reports
its record and does not tick (60_exceptions.md R113), a wait cycle ticks only if TICK_DURING_WAIT, and
every other cycle ticks. -/
def endCycle (i : Instr) (s t : State) : State :=
  match t.mode with
  | .halted cause addr => t.report (.fatal cause) addr s.fetch
  | .running =>
    if isWaitKey i && s.latch.isNone && !s.params.tickDuringWait then t else t.tick

/-- The outcome of a cycle, from the outcome of its execute phase. -/
def finishCycle (i : Instr) (s : State) :
    Host.Outcome State Fault Refusal → Host.Outcome State Fault Refusal
  | .next t => .next (endCycle i s t)
  | .fault f => .fault f
  | .refused r => .refused r

/-- The state with a word stored where the next fetch reads it, high byte first (20_memory.md R42). -/
def State.withWordAtPc (s : State) (w : Word) : State :=
  s.memWrite s.pc.toNat [wordHi w, wordLo w]

end Sys2Proof.Machine
end

