-- ==== Sys2Proof/Machine/Control.lean ====
section
/-! DEFINITION. Control transfer (41_control_flow.md): RET, JP, CALL, the register skips, JP_V0. PC
already holds A + 2 (30_encoding.md R61). -/

namespace Sys2Proof.Machine

/-- `00EE` RET: `PC <- Pop()` (R77, R28). -/
def execRet (s : State) : Host.Outcome State Fault Refusal :=
  .next (s.orFault (s.pop.map fun popped => popped.2.setPc popped.1))

/-- `1nnn` JP: `PC <- zext_16(nnn)` (R78). -/
def execJp (nnn : Addr12) (s : State) : Host.Outcome State Fault Refusal :=
  .next (s.setPc (zext16 nnn))

/-- `2nnn` CALL: `Push(PC) ; PC <- zext_16(nnn)` (R79, R27). -/
def execCall (nnn : Addr12) (s : State) : Host.Outcome State Fault Refusal :=
  .next (s.orFault ((s.push s.pc).map fun t => t.setPc (zext16 nnn)))

/-- `3xkk` SE Vx, byte (R80). -/
def execSeImm (x : RegIdx) (kk : Byte) (s : State) : Host.Outcome State Fault Refusal :=
  .next (s.skipIf (s.getV x == kk))

/-- `4xkk` SNE Vx, byte (R81). -/
def execSneImm (x : RegIdx) (kk : Byte) (s : State) : Host.Outcome State Fault Refusal :=
  .next (s.skipIf (s.getV x != kk))

/-- `5xy0` SE Vx, Vy (R82). -/
def execSeReg (x y : RegIdx) (s : State) : Host.Outcome State Fault Refusal :=
  .next (s.skipIf (s.getV x == s.getV y))

/-- `9xy0` SNE Vx, Vy (R83). -/
def execSneReg (x y : RegIdx) (s : State) : Host.Outcome State Fault Refusal :=
  .next (s.skipIf (s.getV x != s.getV y))

/-- `Bnnn` JP V0, addr: `PC <- zext_16(nnn) + V[0]`, kept unmasked (R84). -/
def execJpV0 (nnn : Addr12) (s : State) : Host.Outcome State Fault Refusal :=
  .next (s.setPc (zext16 nnn + byteToWord (s.getV 0)))

end Sys2Proof.Machine
end

