-- ==== Sys2Proof/Machine/Display.lean ====
section
/-! DEFINITION. The display family (40_display.md): the XOR sprite blitter, CLS and DRW. -/

namespace Sys2Proof.Machine

/-- `DISP[px][py]` of a display buffer. -/
def Display.get (d : Display) (px : Fin 64) (py : Fin 32) : Bool := d[px.val][py.val]

/-- `DISP[px][py] <- DISP[px][py] ^ 1`. -/
def Display.toggle (d : Display) (px : Fin 64) (py : Fin 32) : Display :=
  d.set px.val (d[px.val].set py.val (!d[px.val][py.val]))

/-- `DISP[px][py]` of the machine (10_state.md R30). -/
def State.pixel (s : State) (px : Fin 64) (py : Fin 32) : Bool := Display.get s.disp px py

/-- The body of the blit's inner loop, for bit position b of row r: a set sprite bit toggles its pixel,
and a toggle of a set pixel is a collision (40_display.md R74). The accumulator is the display and
`collided`. -/
def blitBit (ox oy r : Nat) (row : Byte) (acc : Display × Bool) (b : Nat) : Display × Bool :=
  if spriteBit row b then
    (Display.toggle acc.1 (wrapX (ox + b)) (wrapY (oy + r)),
      acc.2 || Display.get acc.1 (wrapX (ox + b)) (wrapY (oy + r)))
  else acc

/-- One row of the sprite: b in 0..7 (40_display.md R74). -/
def blitRow (ox oy r : Nat) (row : Byte) (acc : Display × Bool) : Display × Bool :=
  (List.range 8).foldl (blitBit ox oy r row) acc

/-- `Blit(ox, oy, h)` (40_display.md R74): the display after the draw, and whether a set pixel was
turned off. The rows are read from memory at `I + r`. -/
def State.blit (s : State) (ox oy h : Nat) : Display × Bool :=
  (List.range h).foldl (fun acc r => blitRow ox oy r (s.mem.read (s.indexAddr r)) acc) (s.disp, false)

/-- `00E0` CLS (40_display.md R75). -/
def execCls (s : State) : Host.Outcome State Fault Refusal :=
  .next { s with disp := clearDisplay }

/-- `Dxyn` DRW (40_display.md R76, decisions D6, D8; log 13): the origin is read before VF is written, and VF
is written once, after the blit. -/
def execDrw (x y : RegIdx) (n : Nibble) (s : State) : Host.Outcome State Fault Refusal :=
  let drawn := s.blit (s.getV x).toNat (s.getV y).toNat n.toNat
  .next (State.setV { s with disp := drawn.1 } vf (flagByte drawn.2))

end Sys2Proof.Machine
end

