-- ==== Sys2Proof/Machine/Index.lean ====
section
/-! DEFINITION. The index register and the memory transfers (43_index_memory.md). Every address is
reduced to 12 bits by the memory operations (20_memory.md R40). -/

namespace Sys2Proof.Machine

/-- `if INDEX_ADVANCE: I <- (I + x + 1) mod 2^16` (R103, R104, decision D4). -/
def State.advanceIndex (s : State) (x : RegIdx) : State :=
  if s.params.indexAdvance then s.setI (s.i + x.setWidth 16 + 1) else s

/-- `for k in 0 .. x: V[k] <- MemRead(I + k, 1)` (R104). -/
def State.loadRegs (s : State) (x : RegIdx) : State :=
  (List.range (x.toNat + 1)).foldl
    (fun t k => t.setV (BitVec.ofNat 4 k) (s.mem.read (s.indexAddr k))) s

/-- `Annn` LD I, addr (R99). -/
def execLdI (nnn : Addr12) (s : State) : Host.Outcome State Fault Refusal :=
  .next (s.setI (zext16 nnn))

/-- `Fx1E` ADD I, Vx: VF is the carry out of 16 bits, written last, 0 when there is none (R100). -/
def execAddI (x : RegIdx) (s : State) : Host.Outcome State Fault Refusal :=
  .next ((s.setI (s.i + byteToWord (s.getV x))).setV vf (flagByte (carry16 s.i (s.getV x))))

/-- `Fx29` LD F, Vx: `I <- V[x] * 5`, no mask on Vx (R101). -/
def execLdF (x : RegIdx) (s : State) : Host.Outcome State Fault Refusal :=
  .next (s.setI (byteToWord (s.getV x) * 5))

/-- `Fx33` LD B, Vx: the decimal digits of Vx to MEM[I..I+2] (R102). -/
def execLdB (x : RegIdx) (s : State) : Host.Outcome State Fault Refusal :=
  .next (s.memWrite (s.indexAddr 0) (decimalDigits (s.getV x)))

/-- `Fx55` LD [I], Vx: V0 to Vx to MEM[I..I+x] (R103). -/
def execLdMemVx (x : RegIdx) (s : State) : Host.Outcome State Fault Refusal :=
  .next ((s.memWrite (s.indexAddr 0) (s.regsUpTo x)).advanceIndex x)

/-- `Fx65` LD Vx, [I]: MEM[I..I+x] to V0 to Vx (R104). -/
def execLdVxMem (x : RegIdx) (s : State) : Host.Outcome State Fault Refusal :=
  .next ((s.loadRegs x).advanceIndex x)

end Sys2Proof.Machine
end

