-- ==== Sys2Proof/Machine/Input.lean ====
section
/-! DEFINITION. The key and timer instructions (44_timers_input.md). The tick comes after them, at the
end of the cycle (Machine/Cycle.lean). -/

namespace Sys2Proof.Machine

/-- The state after a skip on the level of the key that Vx names, `wanted` being the level that skips;
Vx above 15 raises KeyIndexRange (R105, R106, decision D9; log 14). -/
def State.skipOnKey (s : State) (x : RegIdx) (wanted : Bool) : State :=
  match keyIndex (s.getV x) with
  | some k => s.skipIf (s.getKey k == wanted)
  | none => s.takeFault .keyIndexRange

/-- `Ex9E` SKP: skip if the key Vx is down (R105). -/
def execSkp (x : RegIdx) (s : State) : Host.Outcome State Fault Refusal :=
  .next (s.skipOnKey x true)

/-- `ExA1` SKNP: skip if the key Vx is up (R106). -/
def execSknp (x : RegIdx) (s : State) : Host.Outcome State Fault Refusal :=
  .next (s.skipOnKey x false)

/-- `Fx07` LD Vx, DT: DT before this cycle's tick (R107). -/
def execLdVxDt (x : RegIdx) (s : State) : Host.Outcome State Fault Refusal :=
  .next (s.setV x s.dt)

/-- `Fx0A` LD Vx, K: take the latch into Vx, or `PC <- A`, a wait cycle (R108, decisions D10, D11; log 15). -/
def execLdVxK (x : RegIdx) (s : State) : Host.Outcome State Fault Refusal :=
  let taken := s.takeLatch
  match taken.1 with
  | some k => .next (taken.2.setV x (keyByte k))
  | none => .next (taken.2.setPc s.fetchAddr)

/-- `Fx15` LD DT, Vx (R109). -/
def execLdDtVx (x : RegIdx) (s : State) : Host.Outcome State Fault Refusal :=
  .next (s.setDt (s.getV x))

/-- `Fx18` LD ST, Vx (R110). -/
def execLdStVx (x : RegIdx) (s : State) : Host.Outcome State Fault Refusal :=
  .next (s.setSt (s.getV x))

end Sys2Proof.Machine
end

