-- ==== Sys2Proof/Machine/Step.lean ====
section
/-! DEFINITION. One step of the core: `Cycle()` (30_encoding.md R62). -/

namespace Sys2Proof.Machine

/-- `Cycle()` (30_encoding.md R62): enabled only when MODE is Running; a halted core has no step
(10_state.md R35). -/
def step (s : State) : Host.Outcome State Fault Refusal :=
  match s.mode with
  | .halted cause addr => .fault (.halted cause addr)
  | .running =>
    match decode s.fetch with
    | .error _ => .next s.unrecognizedCycle
    | .ok i => finishCycle i s (exec i s.beginCycle)

/-- The state with the instruction whose bits are `w`, numbered as spec/opcode_table.json numbers them,
stored at the next fetch address (it stands for the image load, 20_memory.md R51; log 11). -/
def State.withFetchWord (s : State) (nbits w : Nat) : State := s.withWordAtPc (tableWord nbits w)

end Sys2Proof.Machine
end

