-- ==== Sys2Proof/Machine/Interface.lean ====
section
/-! DEFINITION. The core's ports at transaction level (60_exceptions.md R122) and the agents' moves
between cycles (R123): reset, the image load, the cycle strobe, key transitions and the outputs. -/

namespace Sys2Proof.Machine

/-- The `reset` port: `Reset()` (70_reset_and_hazards.md R131) at a set-up's parameters and font. -/
def hostReset (c : Setup) : State :=
  { State.reset with mem := Memory.writeAll [] 0 c.font.toList, params := c.params }

/-- The image load's errors (20_memory.md R51, 60_exceptions.md R112, R115). -/
inductive LoadError where
  /-- Code 16: the image is longer than 3584 bytes; the length is recorded. -/
  | imageTooLarge (length : Nat)
  /-- Code 17: the image source could not be read. -/
  | unreadable
  deriving DecidableEq, Repr

/-- The codes of 60_exceptions.md R112. -/
def LoadError.code : LoadError → Nat
  | .imageTooLarge _ => 16
  | .unreadable => 17

/-- `loadImage` (20_memory.md R51): `none` is a source that could not be read. The bytes go to 0x200
and on; a failed load gives no state to run. -/
def loadImage (image : Option (List Byte)) (s : State) : Except LoadError State :=
  match image with
  | none => .error .unreadable
  | some bytes =>
    if imageFits bytes then .ok (s.memWrite 0x200 bytes) else .error (.imageTooLarge bytes.length)

/-- Reset and the one image load, after which cycles may start (70_reset_and_hazards.md R133). -/
def boot (c : Setup) (image : Option (List Byte)) : Except LoadError State :=
  loadImage image (hostReset c)

/-- `setKeyState(k, p)` (10_state.md R33, decision D18; log 10): a key going from up to down sets the latch. It acts in the
Halted mode too (10_state.md R35). -/
def setKeyState (k : KeyIdx) (p : Bool) (s : State) : State :=
  { s with
    key := s.key.set k.val p k.isLt
    latch := if p && !s.getKey k then some k else s.latch }

/-- The `step` port (60_exceptions.md R122): one cycle when Running, ignored when Halted. -/
def strobe (s : State) : Host.Outcome State Fault Refusal :=
  match s.mode with
  | .halted _ _ => .next s
  | .running => step s

/-- A move of an agent after the load (60_exceptions.md R123; log 18). The presentation's moves write nothing
and are left out. -/
inductive Move where
  /-- The cycle strobe. -/
  | cycle
  /-- A key transition that the input collector reports. -/
  | key (k : KeyIdx) (p : Bool)
  deriving DecidableEq, Repr

/-- One move. -/
def move (m : Move) (s : State) : Host.Outcome State Fault Refusal :=
  match m with
  | .cycle => strobe s
  | .key k p => .next (setKeyState k p s)

/-- A schedule: any number of host moves between two cycles, none inside one (20_memory.md R49). -/
def runMoves : List Move → State → Host.Outcome State Fault Refusal
  | [], s => .next s
  | m :: ms, s =>
    match move m s with
    | .next t => runMoves ms t
    | .fault f => .fault f
    | .refused r => .refused r

/-- The `framebuffer` port, at a cycle boundary (60_exceptions.md R124; log 7). -/
def framebuffer (s : State) : Display := s.disp

/-- The `sound_active` port: ST is not 0 (60_exceptions.md R126). -/
def soundActive (s : State) : Bool := s.st != 0

/-- The `halted` port: MODE with its cause and address (60_exceptions.md R122). -/
def haltedPort (s : State) : Option (FaultCause × Word) :=
  match s.mode with
  | .running => none
  | .halted cause addr => some (cause, addr)

/-- The `diag` port: the records (code, A, w) in cycle order (60_exceptions.md R117). -/
def diagnostics (s : State) : List (Nat × Word × Word) :=
  s.diag.map fun d => (d.cond.code, d.addr, d.word)

end Sys2Proof.Machine
end

