-- ==== Sys2Proof/Safety.lean ====
section
/-! DEFINITION. The terms that claims use: frames, the access tables of the spec, the invariant of the
machine, reachable states, parked states, the sprite's pixels, and states that differ in the unobservable
bits of PC. -/

namespace Sys2Proof.Machine

/-! Frames -/

/-- The pieces of state that an instruction may write beside the general registers and memory. The
keypad and the parameters are no parts: no instruction writes them (10_state.md R31, 00_scope.md R3). -/
inductive Part where
  /-- I. -/
  | index
  /-- PC. -/
  | pc
  /-- SP and the stack entries. -/
  | stack
  /-- DT. -/
  | dt
  /-- ST. -/
  | st
  /-- DISP. -/
  | display
  /-- LATCH. -/
  | latch
  /-- MODE. -/
  | mode
  /-- The count of random bytes drawn. -/
  | draws
  /-- The diagnostic output. -/
  | diag
  deriving DecidableEq, Repr

/-- The part holds the same in both states. -/
def Part.same : Part → State → State → Prop
  | .index, s, t => t.i = s.i
  | .pc, s, t => t.pc = s.pc
  | .stack, s, t => t.sp = s.sp ∧ ∀ j, t.getStack j = s.getStack j
  | .dt, s, t => t.dt = s.dt
  | .st, s, t => t.st = s.st
  | .display, s, t => ∀ px py, t.pixel px py = s.pixel px py
  | .latch, s, t => t.latch = s.latch
  | .mode, s, t => t.mode = s.mode
  | .draws, s, t => t.draws = s.draws
  | .diag, s, t => t.diag = s.diag

/-- From `s` to `t` nothing changed but, at most, the registers `regs`, the bytes at the 12-bit addresses
`addrs`, and the parts `parts`. -/
def Frame (regs : List RegIdx) (addrs : List Nat) (parts : List Part) (s t : State) : Prop :=
  (∀ r, r ∉ regs → t.getV r = s.getV r) ∧
  (∀ a, maskAddr a ∉ addrs → t.mem.read a = s.mem.read a) ∧
  (∀ p, p ∉ parts → Part.same p s t) ∧
  (∀ k, t.getKey k = s.getKey k) ∧
  t.params = s.params

/-! The access tables -/

/-- V0 to Vx. -/
def regRange (x : RegIdx) : List RegIdx := (List.range (x.toNat + 1)).map (BitVec.ofNat 4)

/-- The registers an instruction may write: the last column of the table of 10_state.md R18. -/
def regsWritten : Instr → List RegIdx
  | .cls | .ret | .jp _ | .call _ | .ldI _ => []
  | .seImm _ _ | .sneImm _ _ | .skp _ | .sknp _ | .ldDtVx _ | .ldStVx _ | .ldF _ | .ldB _ => []
  | .seReg _ _ | .sneReg _ _ => []
  | .ldImm x _ | .rnd x _ | .ldVxDt x | .ldVxK x | .addImm x _ => [x]
  | .ldReg x _ | .or x _ | .and x _ | .xor x _ => [x]
  | .addReg x _ | .sub x _ | .subn x _ | .shr x _ | .shl x _ => [x, vf]
  | .jpV0 _ => []
  | .drw _ _ _ | .addI _ => [vf]
  | .ldMemVx _ => []
  | .ldVxMem x => regRange x

/-- The registers an instruction reads: the middle column of the table of 10_state.md R18. -/
def regsRead : Instr → List RegIdx
  | .cls | .ret | .jp _ | .call _ | .ldI _ => []
  | .seImm x _ | .sneImm x _ | .skp x | .sknp x | .ldDtVx x | .ldStVx x | .ldF x | .ldB x => [x]
  | .seReg x y | .sneReg x y => [x, y]
  | .ldImm _ _ | .rnd _ _ | .ldVxDt _ | .ldVxK _ => []
  | .addImm x _ => [x]
  | .ldReg _ y => [y]
  | .or x y | .and x y | .xor x y => [x, y]
  | .addReg x y | .sub x y | .subn x y => [x, y]
  | .shr x _ | .shl x _ => [x]
  | .jpV0 _ => [0]
  | .drw x y _ => [x, y]
  | .addI x => [x]
  | .ldMemVx x => regRange x
  | .ldVxMem _ => []

/-- The 12-bit addresses an instruction stores to (20_memory.md R41): Fx33 and Fx55 alone. -/
def storedAddrs (i : Instr) (s : State) : List Nat :=
  match i with
  | .ldB _ => (List.range 3).map fun k => maskAddr (s.indexAddr k)
  | .ldMemVx x => (List.range (x.toNat + 1)).map fun k => maskAddr (s.indexAddr k)
  | _ => []

/-- The other parts an instruction may write (10_state.md R19 to R35, 60_exceptions.md R112, R125). -/
def partsWritten : Instr → List Part
  | .cls | .drw _ _ _ => [.display]
  | .ret | .call _ => [.pc, .stack, .mode]
  | .jp _ | .jpV0 _ => [.pc]
  | .seImm _ _ | .sneImm _ _ | .seReg _ _ | .sneReg _ _ => [.pc]
  | .skp _ | .sknp _ => [.pc, .mode]
  | .ldI _ | .addI _ | .ldF _ | .ldMemVx _ | .ldVxMem _ => [.index]
  | .rnd _ _ => [.draws]
  | .ldVxK _ => [.pc, .latch]
  | .ldDtVx _ => [.dt]
  | .ldStVx _ => [.st]
  | .ldImm _ _ | .addImm _ _ | .ldReg _ _ | .or _ _ | .and _ _ | .xor _ _ | .addReg _ _ | .sub _ _
  | .shr _ _ | .subn _ _ | .shl _ _ | .ldVxDt _ | .ldB _ => []

/-- The seven instructions that write VF as a side effect (10_state.md R17). -/
def writesFlag : Instr → Bool
  | .addReg _ _ | .sub _ _ | .shr _ _ | .subn _ _ | .shl _ _ | .addI _ | .drw _ _ _ => true
  | _ => false

/-! The sprite's pixels -/

/-- The sprite of `h` rows at `MEM[I..]` with its origin at (ox, oy) has a set bit over the pixel
(40_display.md R74): some row r and bit position b, wrapped, land on it. -/
def SpriteCovers (s : State) (ox oy h : Nat) (px : Fin 64) (py : Fin 32) : Prop :=
  ∃ r < h, ∃ b < 8, (s.mem.read (s.i.toNat + r)).getLsbD (7 - b) = true ∧
    px.val = (ox + b) % 64 ∧ py.val = (oy + r) % 32

/-! Invariants and reachable states -/

/-- The invariant of the machine: memory is canonical; in the Wrap mode SP is a 4-bit counter
(10_state.md R26); a running core has reported warnings only, and a halted one has reported its fault as
the last record, with PC two past the faulting instruction (60_exceptions.md R113, R117). -/
structure State.Inv (s : State) : Prop where
  memWf : s.mem.wf
  spWrap : s.params.stackMode = .wrap → s.sp.val < 16
  runningDiag : s.mode = .running → ∀ d ∈ s.diag, d.cond = .unrecognizedInstruction
  haltedDiag : ∀ c a, s.mode = .halted c a → s.pc = a + 2 ∧
    ∃ before w, s.diag = before ++ [⟨.fatal c, a, w⟩] ∧
      ∀ d ∈ before, d.cond = .unrecognizedInstruction

/-- The states that a run can reach: after a successful load at a well-formed set-up, by cycles and key
transitions in any order (60_exceptions.md R123, 70_reset_and_hazards.md R133). -/
inductive Reachable : State → Prop where
  | boot {c : Setup} {image : Option (List Byte)} {s : State} (hc : c.WellFormed = true)
      (h : boot c image = .ok s) : Reachable s
  | move {m : Move} {s t : State} (hs : Reachable s) (h : move m s = .next t) : Reachable t

/-- Parked (00_scope.md R14; 41_control_flow.md R78, decision D22): PC addresses a `1nnn` whose target is
its own address. -/
def State.Parked (s : State) : Prop :=
  ∃ nnn, decode s.fetch = .ok (.jp nnn) ∧ nnn.toNat = maskAddr s.pc.toNat

/-! States that differ in bits 15:12 of PC -/

/-- Two words with the same 12 bits as an address. -/
def SameLow12 (v w : Word) : Prop := v.toNat % 4096 = w.toNat % 4096

/-- Two modes that differ in bits 15:12 of the recorded address at most. -/
def Mode.SameLow12 : Mode → Mode → Prop
  | .running, .running => True
  | .halted c a, .halted d b => c = d ∧ Machine.SameLow12 a b
  | _, _ => False

/-- Two diagnostic records that differ in bits 15:12 of the address at most. -/
def Diag.SameLow12 (d e : Diag) : Prop :=
  d.cond = e.cond ∧ Machine.SameLow12 d.addr e.addr ∧ d.word = e.word

/-- Two states that agree but for bits 15:12 of PC, of the stacked return addresses, and of the addresses
that the halted mode and the diagnostics record (10_state.md R19). -/
structure State.SamePcLow12 (s t : State) : Prop where
  v : t.v = s.v
  i : t.i = s.i
  pc : Machine.SameLow12 t.pc s.pc
  sp : t.sp = s.sp
  stack : ∀ j, Machine.SameLow12 (t.getStack j) (s.getStack j)
  dt : t.dt = s.dt
  st : t.st = s.st
  mem : t.mem = s.mem
  disp : t.disp = s.disp
  key : t.key = s.key
  latch : t.latch = s.latch
  mode : Mode.SameLow12 t.mode s.mode
  params : t.params = s.params
  draws : t.draws = s.draws
  diag : List.Forall₂ Diag.SameLow12 t.diag s.diag

end Sys2Proof.Machine
end

