-- ==== Sys2Proof/Certificates/Slice0/Obligations.lean ====
section
/-! DEFINITION. The statements for the provers. Each docstring names the rule or decision of spec/ that it
formalises. `exec` runs the execute phase, in which PC already holds A + 2; `step` runs a whole cycle. -/

open Sys2Proof Sys2Proof.Machine

/-! Encoding -/

/-- 30_encoding.md R63 to R68: words of every family, written out from the patterns, decode to the
instruction they stand for, and a word of no pattern is rejected by name. The words of SHR and SHL follow
the spec's inference of their n (log 19). -/
def Obligations.SampleWordsDecodeRight : Prop :=
  decode 0x00E0 = .ok .cls ∧ decode 0xD12F = .ok (.drw 0x1 0x2 0xF) ∧
  decode 0x00EE = .ok .ret ∧ decode 0x1234 = .ok (.jp 0x234) ∧ decode 0x2345 = .ok (.call 0x345) ∧
  decode 0x9AB0 = .ok (.sneReg 0xA 0xB) ∧ decode 0x6A42 = .ok (.ldImm 0xA 0x42) ∧
  decode 0x8CD6 = .ok (.shr 0xC 0xD) ∧ decode 0x8CDE = .ok (.shl 0xC 0xD) ∧
  decode 0xA2F0 = .ok (.ldI 0x2F0) ∧ decode 0xF165 = .ok (.ldVxMem 0x1) ∧
  decode 0xE4A1 = .ok (.sknp 0x4) ∧ decode 0xF50A = .ok (.ldVxK 0x5) ∧
  decode 0x5121 = .error (.unrecognizedInstruction 0x5121)

/-- 30_encoding.md R57 to R70 (primary nibble 8 by log 19): decoding the word of an instruction gives the instruction back, for all 34
instructions and every value of every field. -/
def Obligations.DecodeOfEncodeIsIdentity : Prop :=
  ∀ i : Instr, i.WellFormed = true → decode (encode i) = .ok i

/-- 30_encoding.md R70 (primary nibble 8 by log 19): a recognized word is the encoding of what it decodes to, so no two words decode to
one instruction. -/
def Obligations.EncodeOfDecodeIsIdentity : Prop :=
  ∀ (w : Word) (i : Instr), decode w = .ok i → encode i = w

/-- 30_encoding.md R70 (primary nibble 8 by log 19): a word is recognized exactly when it matches a row of the opcode table, the row is
then the instruction's own, and no word matches two rows. -/
def Obligations.EachWordMatchesAtMostOneRow : Prop :=
  (∀ (w : Word) (i : Instr), decode w = .ok i → i.row ∈ opcodeTable ∧ i.row.matchesWord w = true) ∧
  (∀ (w v : Word), decode w = .error (.unrecognizedInstruction v) →
    v = w ∧ ∀ r ∈ opcodeTable, r.matchesWord w = false) ∧
  (∀ (w : Word), ∀ r ∈ opcodeTable, ∀ q ∈ opcodeTable,
    r.matchesWord w = true → q.matchesWord w = true → r = q)

/-- 30_encoding.md R64, R66, R67, R68: the words of the primary nibbles 0, E, F, 5 and 9 are recognized
only in the forms the rules list, and every other word of theirs is unrecognized. -/
def Obligations.SharedNibblesDecodeByTheirSecondKey : Prop :=
  (∀ nnn : Addr12, decode (0x0#4 ++ nnn) =
    if nnn = 0x0E0 then .ok .cls else if nnn = 0x0EE then .ok .ret
    else .error (.unrecognizedInstruction (0x0#4 ++ nnn))) ∧
  (∀ (x : RegIdx) (kk : Byte), decode (0xE#4 ++ x ++ kk) =
    if kk = 0x9E then .ok (.skp x) else if kk = 0xA1 then .ok (.sknp x)
    else .error (.unrecognizedInstruction (0xE#4 ++ x ++ kk))) ∧
  (∀ (x : RegIdx) (kk : Byte), decode (0xF#4 ++ x ++ kk) =
    if kk = 0x07 then .ok (.ldVxDt x) else if kk = 0x0A then .ok (.ldVxK x)
    else if kk = 0x15 then .ok (.ldDtVx x) else if kk = 0x18 then .ok (.ldStVx x)
    else if kk = 0x1E then .ok (.addI x) else if kk = 0x29 then .ok (.ldF x)
    else if kk = 0x33 then .ok (.ldB x) else if kk = 0x55 then .ok (.ldMemVx x)
    else if kk = 0x65 then .ok (.ldVxMem x)
    else .error (.unrecognizedInstruction (0xF#4 ++ x ++ kk))) ∧
  (∀ (x y : RegIdx) (n : Nibble), decode (0x5#4 ++ x ++ y ++ n) =
    if n = 0 then .ok (.seReg x y) else .error (.unrecognizedInstruction (0x5#4 ++ x ++ y ++ n))) ∧
  (∀ (x y : RegIdx) (n : Nibble), decode (0x9#4 ++ x ++ y ++ n) =
    if n = 0 then .ok (.sneReg x y) else .error (.unrecognizedInstruction (0x9#4 ++ x ++ y ++ n)))

/-! The cycle -/

/-- 30_encoding.md R61, R62; 60_exceptions.md R113, R121, decisions D10, D13: when the two bytes at PC
decode to an instruction, the step advances PC by 2, runs the instruction, and ends the cycle: a fault
reports its record and does not tick, a wait cycle with TICK_DURING_WAIT false does not tick, every other
cycle ticks both timers. -/
def Obligations.StepRunsTheDecodedInstruction : Prop :=
  ∀ (s t : State) (i : Instr), s.mode = .running →
    decodeBytes (s.mem.read s.pc.toNat) (s.mem.read (s.pc.toNat + 1)) = .ok i →
    i.WellFormed = true →
    exec i { s with pc := s.pc + 2 } = .next t →
    step s = .next (match t.mode with
      | .halted c a => { t with diag := t.diag ++ [⟨.fatal c, a,
          wordOfBytes (s.mem.read s.pc.toNat) (s.mem.read (s.pc.toNat + 1))⟩] }
      | .running =>
        if isWaitKey i = true ∧ s.latch = none ∧ s.params.tickDuringWait = false then t
        else { t with dt := tickByte t.dt, st := tickByte t.st })

/-- 30_encoding.md R60: the fetch is big-endian, and each of its two addresses is masked to 12 bits, so a
fetch at 0xFFF takes its second byte from 0x000. -/
def Obligations.FetchIsBigEndianAndWraps : Prop :=
  ∀ s : State, s.fetch.toNat =
    256 * (s.mem.read (s.pc.toNat % 4096)).toNat + (s.mem.read ((s.pc.toNat + 1) % 4096)).toNat

/-- 30_encoding.md R69, decision D14 (log 10), log 3: an unrecognized word advances PC, reports (0, A, w),
ticks the timers and changes nothing else. -/
def Obligations.UnrecognizedWordIsAReportedNoOp : Prop :=
  ∀ (s : State) (w : Word), s.mode = .running →
    decode s.fetch = .error (.unrecognizedInstruction w) →
    ∃ t, step s = .next t ∧ t.pc = s.pc + 2 ∧
      t.diag = s.diag ++ [⟨.unrecognizedInstruction, s.pc, s.fetch⟩] ∧
      t.dt.toNat = s.dt.toNat - 1 ∧ t.st.toNat = s.st.toNat - 1 ∧
      Frame [] [] [.pc, .dt, .st, .diag] s t

/-- 10_state.md R35, decision D13 (log 6, log 14): a halted core takes no cycle, ignores the strobe, and
still takes key transitions, which leave it halted. -/
def Obligations.HaltedCoreTakesNoCycle : Prop :=
  ∀ (s : State) (c : FaultCause) (a : Word), s.mode = .halted c a →
    step s = .fault (.halted c a) ∧ move .cycle s = .next s ∧
    ∀ (k : KeyIdx) (p : Bool), ∃ t, move (.key k p) s = .next t ∧ t.getKey k = p ∧
      t.mode = .halted c a ∧ t.dt = s.dt ∧ t.st = s.st ∧ t.v = s.v ∧ t.pc = s.pc

/-- 60_exceptions.md R121, decision D10: what each timer holds after one cycle, counted from the value it
started with or the value Fx15 or Fx18 gave it: one less and never below 0, but unchanged in a faulting
cycle and in a wait cycle when TICK_DURING_WAIT is false. -/
def Obligations.TimersTickOncePerCompletedCycle : Prop :=
  ∀ s t : State, step s = .next t →
    if t.mode ≠ .running ∨ ((∃ x, decode s.fetch = .ok (.ldVxK x)) ∧ s.latch = none ∧
        s.params.tickDuringWait = false)
    then t.dt = s.dt ∧ t.st = s.st
    else
      (∀ x, decode s.fetch = .ok (.ldDtVx x) →
        t.dt.toNat = (s.getV x).toNat - 1 ∧ t.st.toNat = s.st.toNat - 1) ∧
      (∀ x, decode s.fetch = .ok (.ldStVx x) →
        t.st.toNat = (s.getV x).toNat - 1 ∧ t.dt.toNat = s.dt.toNat - 1) ∧
      ((∀ x, decode s.fetch ≠ .ok (.ldDtVx x)) → (∀ x, decode s.fetch ≠ .ok (.ldStVx x)) →
        t.dt.toNat = s.dt.toNat - 1 ∧ t.st.toNat = s.st.toNat - 1)

/-! Memory -/

/-- 20_memory.md R40: every address is reduced to 12 bits, a run of bytes continues from 0xFFF at 0x000,
and a write leaves every other byte as it was. -/
def Obligations.WrittenBytesReadBackAtMaskedAddresses : Prop :=
  (∀ (m : Memory) (a : Nat), m.read a = m.read (a &&& 0xFFF)) ∧
  (∀ (m : Memory) (a : Nat) (bs : List Byte), bs.length ≤ 4096 →
    (∀ (k : Nat) (b : Byte), bs[k]? = some b → (m.writeAll a bs).read ((a + k) &&& 0xFFF) = b) ∧
    ∀ c : Nat, (∀ k < bs.length, (a + k) &&& 0xFFF ≠ c &&& 0xFFF) →
      (m.writeAll a bs).read c = m.read c)

/-- The model's canonical form (log 5): two canonical memories that read the same at every address are the
same list. -/
def Obligations.CanonicalMemoriesAreEqualWhenTheirBytesAre : Prop :=
  ∀ m n : Memory, m.wf → n.wf → (∀ a < 4096, m.read a = n.read a) → m = n

/-! Display -/

/-- 40_display.md R75: CLS zeroes every pixel and touches nothing else. -/
def Obligations.ClearDisplayZeroesEveryPixel : Prop :=
  decode 0x00E0 = .ok .cls ∧
  ∀ s : State, ∃ t, exec .cls s = .next t ∧ (∀ px py, t.pixel px py = false) ∧
    Frame [] [] [.display] s t

/-- 40_display.md R74, R76 with decisions D6, D7, D8: the blit loop flips exactly the pixels that the
wrapped sprite covers, VF is 1 exactly when one of them was set, and I, memory and every other register
are unchanged; VF as x or y gives the origin from its old value. -/
def Obligations.DrawFlipsExactlyTheSpritePixels : Prop :=
  ∀ (x y : RegIdx) (n : Nibble) (s : State), ∃ t, exec (.drw x y n) s = .next t ∧
    (∀ px py, (t.pixel px py ≠ s.pixel px py) ↔
      SpriteCovers s (s.getV x).toNat (s.getV y).toNat n.toNat px py) ∧
    (t.getV vf = 0 ∨ t.getV vf = 1) ∧
    (t.getV vf = 1 ↔ ∃ px py, s.pixel px py = true ∧
      SpriteCovers s (s.getV x).toNat (s.getV y).toNat n.toNat px py) ∧
    Frame [vf] [] [.display] s t

/-- 90_conflicts.md C2, 40_display.md R76, decisions D6, D7, D8: the same sprite drawn twice restores every
pixel, and the second flag is 1 exactly when some covered pixel was 0 before the first draw. -/
def Obligations.SecondDrawRestoresTheDisplay : Prop :=
  ∀ (x y : RegIdx) (n : Nibble) (s : State), x ≠ vf → y ≠ vf →
    ∃ t u, exec (.drw x y n) s = .next t ∧ exec (.drw x y n) t = .next u ∧
      (∀ px py, u.pixel px py = s.pixel px py) ∧
      (u.getV vf = 1 ↔ ∃ px py, s.pixel px py = false ∧
        SpriteCovers s (s.getV x).toNat (s.getV y).toNat n.toNat px py)

/-! Control transfer -/

/-- 41_control_flow.md R77, 10_state.md R28, decision D3: RET pops the newest entry into PC, leaves the
entries as they are, and in the Wrap mode pops an empty stack to entry 15. -/
def Obligations.ReturnPopsTheNewestEntry : Prop :=
  ∀ s : State, (s.params.stackMode = .fault → s.sp.val ≠ 0) →
    ∃ t, exec .ret s = .next t ∧
      t.sp.val = (if s.params.stackMode = .wrap then (s.sp.val + 15) % 16 else s.sp.val - 1) ∧
      (∃ j : Fin 16, j.val = t.sp.val ∧ t.pc = s.getStack j) ∧
      (∀ j, t.getStack j = s.getStack j) ∧ Frame [] [] [.pc, .stack] s t

/-- 41_control_flow.md R79, 10_state.md R27, decision D3: CALL stacks PC, the address of the next
instruction, at SP, and goes to nnn; depth 16 is legal; in the Wrap mode SP wraps from 15 to 0. -/
def Obligations.CallStacksTheReturnAddress : Prop :=
  ∀ (nnn : Addr12) (s : State), (s.params.stackMode = .fault → s.sp.val < 16) →
    ∃ t, exec (.call nnn) s = .next t ∧ t.pc.toNat = nnn.toNat ∧
      t.sp.val = (if s.params.stackMode = .wrap then (s.sp.val + 1) % 16 else s.sp.val + 1) ∧
      (∃ j : Fin 16, j.val = s.sp.val % 16 ∧ t.getStack j = s.pc ∧
        ∀ k, k ≠ j → t.getStack k = s.getStack k) ∧
      Frame [] [] [.pc, .stack] s t

/-- 41_control_flow.md R77, R79, 60_exceptions.md R112, decisions D3, D13: in the Fault mode RET on an
empty stack and CALL on a full one halt the core at the instruction's own address and write nothing
else. -/
def Obligations.StackFaultsHaltTheCore : Prop :=
  (∀ s : State, s.params.stackMode = .fault → s.sp.val = 0 →
    exec .ret s = .next { s with mode := .halted .stackUnderflow (s.pc - 2) }) ∧
  (∀ (nnn : Addr12) (s : State), s.params.stackMode = .fault → s.sp.val = 16 →
    exec (.call nnn) s = .next { s with mode := .halted .stackOverflow (s.pc - 2) })

/-- 41_control_flow.md R79 (the source's property L1-9), decision D3: a return with the stack as the call
left it goes to the instruction after the call and restores SP, whatever else the subroutine changed. -/
def Obligations.ReturnUndoesCall : Prop :=
  ∀ (nnn : Addr12) (s : State), s.sp.val < 16 →
    ∃ t, exec (.call nnn) s = .next t ∧
      ∀ u : State, u.sp = t.sp → (∀ j, u.getStack j = t.getStack j) → u.params = t.params →
        ∃ r, exec .ret u = .next r ∧ r.pc = s.pc ∧ r.sp = s.sp

/-- 41_control_flow.md R78: JP goes to nnn, zero-extended, and changes nothing else. -/
def Obligations.JumpGoesToItsTarget : Prop :=
  ∀ nnn : Addr12, decode (0x1#4 ++ nnn) = .ok (.jp nnn) ∧
    ∀ s : State, ∃ t, exec (.jp nnn) s = .next t ∧ t.pc.toNat = nnn.toNat ∧ Frame [] [] [.pc] s t

/-- 41_control_flow.md R80, R81: SE and SNE with an immediate add 2 to PC exactly when Vx equals,
respectively differs from, kk; nothing else changes. -/
def Obligations.ImmediateSkips : Prop :=
  ∀ (x : RegIdx) (kk : Byte),
    decode (0x3#4 ++ x ++ kk) = .ok (.seImm x kk) ∧ decode (0x4#4 ++ x ++ kk) = .ok (.sneImm x kk) ∧
    ∀ s : State,
      (∃ t, exec (.seImm x kk) s = .next t ∧
        t.pc.toNat = (if s.getV x = kk then (s.pc.toNat + 2) % 65536 else s.pc.toNat) ∧
        Frame [] [] [.pc] s t) ∧
      (∃ t, exec (.sneImm x kk) s = .next t ∧
        t.pc.toNat = (if s.getV x ≠ kk then (s.pc.toNat + 2) % 65536 else s.pc.toNat) ∧
        Frame [] [] [.pc] s t)

/-- 41_control_flow.md R82, R83: SE and SNE of two registers add 2 to PC exactly when Vx equals,
respectively differs from, Vy; nothing else changes; x = y always, respectively never, skips. -/
def Obligations.RegisterSkips : Prop :=
  ∀ (x y : RegIdx) (s : State),
    (∃ t, exec (.seReg x y) s = .next t ∧
      t.pc.toNat = (if s.getV x = s.getV y then (s.pc.toNat + 2) % 65536 else s.pc.toNat) ∧
      Frame [] [] [.pc] s t) ∧
    (∃ t, exec (.sneReg x y) s = .next t ∧
      t.pc.toNat = (if s.getV x ≠ s.getV y then (s.pc.toNat + 2) % 65536 else s.pc.toNat) ∧
      Frame [] [] [.pc] s t) ∧
    (∀ n : Nibble, decode (0x5#4 ++ x ++ y ++ n) = if n = 0 then .ok (.seReg x y)
      else .error (.unrecognizedInstruction (0x5#4 ++ x ++ y ++ n))) ∧
    (∀ n : Nibble, decode (0x9#4 ++ x ++ y ++ n) = if n = 0 then .ok (.sneReg x y)
      else .error (.unrecognizedInstruction (0x9#4 ++ x ++ y ++ n)))

/-- 41_control_flow.md R84: JP V0 goes to nnn + V0, never wraps 16 bits, keeps a sum above 0xFFF in PC as it
is, and the next fetch reads it masked. -/
def Obligations.JumpWithOffsetAddsV0 : Prop :=
  ∀ nnn : Addr12, decode (0xB#4 ++ nnn) = .ok (.jpV0 nnn) ∧
    ∀ s : State, ∃ t, exec (.jpV0 nnn) s = .next t ∧
      t.pc.toNat = nnn.toNat + (s.getV 0).toNat ∧ t.pc.toNat ≤ 0x10FE ∧
      t.fetch = wordOfBytes (s.mem.read ((nnn.toNat + (s.getV 0).toNat) &&& 0xFFF))
        (s.mem.read ((nnn.toNat + (s.getV 0).toNat + 1) &&& 0xFFF)) ∧
      Frame [] [] [.pc] s t

/-- 41_control_flow.md R78, decision D22: a parked core stays parked: its cycle changes the timers and at
most the unobservable high bits of PC. -/
def Obligations.ParkedCoreStaysParked : Prop :=
  ∀ s : State, s.mode = .running → s.Parked →
    ∃ t, step s = .next t ∧ t.Parked ∧ t.mode = .running ∧
      t.pc.toNat = s.pc.toNat % 4096 ∧
      t.dt.toNat = s.dt.toNat - 1 ∧ t.st.toNat = s.st.toNat - 1 ∧
      Frame [] [] [.pc, .dt, .st] s t

/-! Loads, arithmetic and logic -/

/-- 42_alu.md R86: LD Vx, byte sets Vx to kk and no other register. -/
def Obligations.LoadImmediateSetsVxAlone : Prop :=
  ∀ (x : RegIdx) (kk : Byte), decode (0x6#4 ++ x ++ kk) = .ok (.ldImm x kk) ∧
    ∀ s : State, ∃ t, exec (.ldImm x kk) s = .next t ∧ t.getV x = kk ∧ Frame [x] [] [] s t

/-- 42_alu.md R87: ADD Vx, byte wraps modulo 256 and has no flag side effect. -/
def Obligations.AddImmediateWrapsWithoutFlag : Prop :=
  ∀ (x : RegIdx) (kk : Byte), decode (0x7#4 ++ x ++ kk) = .ok (.addImm x kk) ∧
    ∀ s : State, ∃ t, exec (.addImm x kk) s = .next t ∧
      (t.getV x).toNat = ((s.getV x).toNat + kk.toNat) % 256 ∧ Frame [x] [] [] s t

/-- 42_alu.md R88 to R91: LD, OR, AND and XOR of two registers write Vx alone; VF is not reset. That their
words stand at n = 0 to 3 is the spec's own inference from the order of a list (log 19; 30_encoding.md R65:
"The spec maps the first eight to n = 0..7 in that order and the ninth to n = 0xE"). -/
def Obligations.CopyAndLogicWriteVxAlone : Prop :=
  ∀ (x y : RegIdx),
    decode (0x8#4 ++ x ++ y ++ 0x0#4) = .ok (.ldReg x y) ∧
    decode (0x8#4 ++ x ++ y ++ 0x1#4) = .ok (.or x y) ∧
    decode (0x8#4 ++ x ++ y ++ 0x2#4) = .ok (.and x y) ∧
    decode (0x8#4 ++ x ++ y ++ 0x3#4) = .ok (.xor x y) ∧
    ∀ s : State,
      (∃ t, exec (.ldReg x y) s = .next t ∧ t.getV x = s.getV y ∧ Frame [x] [] [] s t) ∧
      (∃ t, exec (.or x y) s = .next t ∧
        (∀ k, (t.getV x).getLsbD k = ((s.getV x).getLsbD k || (s.getV y).getLsbD k)) ∧
        Frame [x] [] [] s t) ∧
      (∃ t, exec (.and x y) s = .next t ∧
        (∀ k, (t.getV x).getLsbD k = ((s.getV x).getLsbD k && (s.getV y).getLsbD k)) ∧
        Frame [x] [] [] s t) ∧
      (∃ t, exec (.xor x y) s = .next t ∧
        (∀ k, (t.getV x).getLsbD k = ((s.getV x).getLsbD k != (s.getV y).getLsbD k)) ∧
        Frame [x] [] [] s t)

/-- 42_alu.md R92, R85, decision D5: the sum modulo 256, and VF is 1 exactly when the sum is above 255; with
x = F the flag is what VF ends with. -/
def Obligations.AddSetsCarry : Prop :=
  ∀ (x y : RegIdx) (s : State), ∃ t, exec (.addReg x y) s = .next t ∧
    (x ≠ vf → (t.getV x).toNat = ((s.getV x).toNat + (s.getV y).toNat) % 256) ∧
    t.getV vf = (if (s.getV x).toNat + (s.getV y).toNat > 255 then 1 else 0) ∧
    Frame [x, vf] [] [] s t

/-- 42_alu.md R93, R95, R85, decision D5: the differences modulo 256, and VF is 1 exactly when the minuend is
strictly greater, so 0 on equality; with x = F the flag is what VF ends with. -/
def Obligations.SubtractionsSetStrictNoBorrow : Prop :=
  ∀ (x y : RegIdx) (s : State),
    (∃ t, exec (.sub x y) s = .next t ∧
      (x ≠ vf → (t.getV x).toNat = ((s.getV x).toNat + 256 - (s.getV y).toNat) % 256) ∧
      t.getV vf = (if (s.getV x).toNat > (s.getV y).toNat then 1 else 0) ∧
      Frame [x, vf] [] [] s t) ∧
    (∃ t, exec (.subn x y) s = .next t ∧
      (x ≠ vf → (t.getV x).toNat = ((s.getV y).toNat + 256 - (s.getV x).toNat) % 256) ∧
      t.getV vf = (if (s.getV y).toNat > (s.getV x).toNat then 1 else 0) ∧
      Frame [x, vf] [] [] s t)

/-- 42_alu.md R94, R96, R85, decision D5: the shifts halve and double Vx, VF is the bit shifted out, and y
plays no part; with x = F the flag is what VF ends with. -/
def Obligations.ShiftsMoveTheLostBitToVF : Prop :=
  ∀ (x y : RegIdx) (s : State),
    (∃ t, exec (.shr x y) s = .next t ∧
      (x ≠ vf → (t.getV x).toNat = (s.getV x).toNat / 2) ∧
      (t.getV vf).toNat = (s.getV x).toNat % 2 ∧ Frame [x, vf] [] [] s t) ∧
    (∃ t, exec (.shl x y) s = .next t ∧
      (x ≠ vf → (t.getV x).toNat = (s.getV x).toNat * 2 % 256) ∧
      (t.getV vf).toNat = (s.getV x).toNat / 128 ∧ Frame [x, vf] [] [] s t)

/-- 42_alu.md R97, 60_exceptions.md R125, decision D12: one byte is drawn, whatever kk is, and Vx is the
drawn byte masked with kk. The byte is a free value: the statement holds for every one. -/
def Obligations.RandomByteIsMasked : Prop :=
  ∀ (x : RegIdx) (kk : Byte) (s : State), ∃ t, exec (.rnd x kk) s = .next t ∧
    (∀ k, (t.getV x).getLsbD k = (kk.getLsbD k && (Config.randomByte s.draws).getLsbD k)) ∧
    t.draws = s.draws + 1 ∧ Frame [x] [] [.draws] s t

/-! The index register and memory transfers -/

/-- 43_index_memory.md R99: LD I, addr sets I to nnn and clears its bits 15:12. -/
def Obligations.LoadIndexSetsI : Prop :=
  ∀ nnn : Addr12, decode (0xA#4 ++ nnn) = .ok (.ldI nnn) ∧
    ∀ s : State, ∃ t, exec (.ldI nnn) s = .next t ∧ t.i.toNat = nnn.toNat ∧ Frame [] [] [.index] s t

/-- 43_index_memory.md R100, decision D5, 90_conflicts.md C8: I + Vx modulo 2^16, and VF is the carry out of
16 bits, 0 when there is none; with x = F the old VF is added. -/
def Obligations.AddToIndexSetsSixteenBitCarry : Prop :=
  ∀ (x : RegIdx) (s : State), ∃ t, exec (.addI x) s = .next t ∧
    t.i.toNat = (s.i.toNat + (s.getV x).toNat) % 65536 ∧
    t.getV vf = (if s.i.toNat + (s.getV x).toNat > 0xFFFF then 1 else 0) ∧
    Frame [vf] [] [.index] s t

/-- 43_index_memory.md R101: I becomes Vx * 5, with no mask on Vx; for Vx in 0..15 it is a glyph's address. -/
def Obligations.GlyphAddressIsFiveTimesVx : Prop :=
  ∀ x : RegIdx, decode (0xF#4 ++ x ++ 0x29#8) = .ok (.ldF x) ∧
    ∀ s : State, ∃ t, exec (.ldF x) s = .next t ∧ t.i.toNat = (s.getV x).toNat * 5 ∧
      Frame [] [] [.index] s t

/-- 43_index_memory.md R102: the hundreds, tens and ones of Vx go to MEM[I], MEM[I + 1] and MEM[I + 2], the
addresses masked; I and every other byte are unchanged, and the next fetch sees the new bytes. -/
def Obligations.DecimalDigitsAreStoredAtIndex : Prop :=
  ∀ x : RegIdx, decode (0xF#4 ++ x ++ 0x33#8) = .ok (.ldB x) ∧
    ∀ s : State, ∃ t, exec (.ldB x) s = .next t ∧
      (t.mem.read (s.indexAddr 0)).toNat = (s.getV x).toNat / 100 ∧
      (t.mem.read (s.indexAddr 1)).toNat = (s.getV x).toNat / 10 % 10 ∧
      (t.mem.read (s.indexAddr 2)).toNat = (s.getV x).toNat % 10 ∧
      t.fetch = wordOfBytes (t.mem.read s.pc.toNat) (t.mem.read (s.pc.toNat + 1)) ∧
      Frame [] [maskAddr (s.indexAddr 0), maskAddr (s.indexAddr 1), maskAddr (s.indexAddr 2)] [] s t

/-- 43_index_memory.md R103, decision D4: V0 to Vx go to MEM[I..I+x], the addresses masked; I advances by
x + 1 exactly when INDEX_ADVANCE is set. -/
def Obligations.RegisterStoreWritesTheRange : Prop :=
  ∀ (x : RegIdx) (s : State), ∃ t, exec (.ldMemVx x) s = .next t ∧
    (∀ r : RegIdx, r.toNat ≤ x.toNat → t.mem.read (s.indexAddr r.toNat) = s.getV r) ∧
    t.i.toNat = (if s.params.indexAdvance = true then (s.i.toNat + x.toNat + 1) % 65536
      else s.i.toNat) ∧
    Frame [] ((List.range (x.toNat + 1)).map fun k => maskAddr (s.indexAddr k)) [.index] s t

/-- 43_index_memory.md R104, decision D4: V0 to Vx come from MEM[I..I+x], the addresses masked; the registers
above Vx keep their values; I advances by x + 1 exactly when INDEX_ADVANCE is set. -/
def Obligations.RegisterLoadReadsTheRange : Prop :=
  ∀ (x : RegIdx) (s : State), ∃ t, exec (.ldVxMem x) s = .next t ∧
    (∀ r : RegIdx, r.toNat ≤ x.toNat → t.getV r = s.mem.read (s.indexAddr r.toNat)) ∧
    t.i.toNat = (if s.params.indexAdvance = true then (s.i.toNat + x.toNat + 1) % 65536
      else s.i.toNat) ∧
    Frame (regRange x) [] [.index] s t

/-- 43_index_memory.md R104 (its corner case), decision D4: a store followed by a load with the same x and I
restores V0 to Vx, whatever the registers hold between. -/
def Obligations.LoadAfterStoreRestoresRegisters : Prop :=
  ∀ (x : RegIdx) (s : State), ∃ t, exec (.ldMemVx x) s = .next t ∧
    ∀ u : State, u.mem = t.mem → u.i = s.i →
      ∃ r, exec (.ldVxMem x) u = .next r ∧ ∀ q : RegIdx, q.toNat ≤ x.toNat → r.getV q = s.getV q

/-! Keys and timers -/

/-- 44_timers_input.md R105, R106: with Vx in 0..15, SKP skips exactly when the key Vx is down and SKNP
exactly when it is up; the latch and all else are unchanged. -/
def Obligations.KeySkipsReadTheKeyLevel : Prop :=
  ∀ (x : RegIdx) (s : State) (k : KeyIdx), (s.getV x).toNat = k.val →
    (∃ t, exec (.skp x) s = .next t ∧
      t.pc = (if s.getKey k = true then s.pc + 2 else s.pc) ∧ Frame [] [] [.pc] s t) ∧
    (∃ t, exec (.sknp x) s = .next t ∧
      t.pc = (if s.getKey k = false then s.pc + 2 else s.pc) ∧ Frame [] [] [.pc] s t)

/-- 44_timers_input.md R105, R106, decision D9: with Vx above 15, SKP and SKNP halt the core with
KeyIndexRange at their own address and write nothing else. -/
def Obligations.KeyIndexOutOfRangeHalts : Prop :=
  ∀ (x : RegIdx) (s : State), 15 < (s.getV x).toNat →
    exec (.skp x) s = .next { s with mode := .halted .keyIndexRange (s.pc - 2) } ∧
    exec (.sknp x) s = .next { s with mode := .halted .keyIndexRange (s.pc - 2) }

/-- 44_timers_input.md R107: LD Vx, DT reads DT before the cycle's tick. -/
def Obligations.DelayTimerIsReadBeforeTheTick : Prop :=
  ∀ x : RegIdx, decode (0xF#4 ++ x ++ 0x07#8) = .ok (.ldVxDt x) ∧
    (∀ s : State, ∃ t, exec (.ldVxDt x) s = .next t ∧ t.getV x = s.dt ∧ Frame [x] [] [] s t) ∧
    (∀ s : State, s.mode = .running → s.fetch = 0xF#4 ++ x ++ 0x07#8 →
      ∃ t, step s = .next t ∧ t.getV x = s.dt ∧ t.dt.toNat = s.dt.toNat - 1)

/-- 44_timers_input.md R108, 10_state.md R34, decisions D10, D11: a key in the latch, however old, is taken
at once: Vx is the key, the latch is empty, and nothing else changes. -/
def Obligations.WaitTakesALatchedKey : Prop :=
  ∀ (x : RegIdx) (s : State) (k : KeyIdx), s.latch = some k →
    ∃ t, exec (.ldVxK x) s = .next t ∧ (t.getV x).toNat = k.val ∧ t.latch = none ∧
      Frame [x] [] [.latch] s t

/-- 44_timers_input.md R108, decision D10: with no key latched the cycle is a wait cycle: PC returns to the
instruction, so that it runs again, and only the timers move, and they only if TICK_DURING_WAIT. -/
def Obligations.WaitWithoutAKeyRepeats : Prop :=
  ∀ (x : RegIdx) (s : State), s.latch = none →
    exec (.ldVxK x) s = .next { s with pc := s.pc - 2 } ∧
    (s.mode = .running → decode s.fetch = .ok (.ldVxK x) →
      ∃ t, step s = .next t ∧ Frame [] [] [.dt, .st] s t ∧ t.fetch = s.fetch ∧
        t.dt.toNat = (if s.params.tickDuringWait = true then s.dt.toNat - 1 else s.dt.toNat) ∧
        t.st.toNat = (if s.params.tickDuringWait = true then s.st.toNat - 1 else s.st.toNat))

/-- 44_timers_input.md R109: LD DT, Vx writes DT, and the same cycle's tick follows, so DT ends at Vx - 1, or
0. -/
def Obligations.DelayTimerWriteIsTickedAtOnce : Prop :=
  ∀ x : RegIdx, decode (0xF#4 ++ x ++ 0x15#8) = .ok (.ldDtVx x) ∧
    (∀ s : State, ∃ t, exec (.ldDtVx x) s = .next t ∧ t.dt = s.getV x ∧ Frame [] [] [.dt] s t) ∧
    (∀ s : State, s.mode = .running → s.fetch = 0xF#4 ++ x ++ 0x15#8 →
      ∃ t, step s = .next t ∧ t.dt.toNat = (s.getV x).toNat - 1)

/-- 44_timers_input.md R110, 60_exceptions.md R126: LD ST, Vx writes ST, the same cycle's tick follows, and
the sound output is active after the cycle exactly when Vx was above 1. -/
def Obligations.SoundTimerWriteIsTickedAtOnce : Prop :=
  ∀ x : RegIdx, decode (0xF#4 ++ x ++ 0x18#8) = .ok (.ldStVx x) ∧
    (∀ s : State, ∃ t, exec (.ldStVx x) s = .next t ∧ t.st = s.getV x ∧ Frame [] [] [.st] s t) ∧
    (∀ s : State, s.mode = .running → s.fetch = 0xF#4 ++ x ++ 0x18#8 →
      ∃ t, step s = .next t ∧ t.st.toNat = (s.getV x).toNat - 1 ∧
        soundActive t = decide (1 < (s.getV x).toNat))

/-! The whole machine -/

/-- 60_exceptions.md R113, decision D13: a fault is precise: the state after a faulting cycle is the state
after its fetch and PC increment, halted at the fetch address, with one record reported and no tick. -/
def Obligations.FaultsArePrecise : Prop :=
  ∀ (s t : State) (c : FaultCause) (a : Word), step s = .next t → t.mode = .halted c a →
    a = s.pc ∧
    t = { s with
          pc := s.pc + 2
          mode := .halted c s.pc
          diag := s.diag ++ [⟨.fatal c, s.pc, s.fetch⟩] }

/-- 60_exceptions.md R112, R114, R116, decisions D3, D9, D13: every instruction completes in every state,
and MODE changes only by the three conditions of R112, each with its own cause. -/
def Obligations.OnlyTheListedConditionsHalt : Prop :=
  ∀ (i : Instr) (s : State), ∃ t, exec i s = .next t ∧
    (t.mode = s.mode ∨
     (i = .ret ∧ s.params.stackMode = .fault ∧ s.sp.val = 0 ∧
       t.mode = .halted .stackUnderflow (s.pc - 2)) ∨
     (∃ nnn, i = .call nnn ∧ s.params.stackMode = .fault ∧ s.sp.val = 16 ∧
       t.mode = .halted .stackOverflow (s.pc - 2)) ∨
     (∃ x, (i = .skp x ∨ i = .sknp x) ∧ 15 < (s.getV x).toNat ∧
       t.mode = .halted .keyIndexRange (s.pc - 2)))

/-- 10_state.md R18, R24, R25, R29 to R34; 20_memory.md R41; 60_exceptions.md R125: the frame of every
instruction: it writes no register, byte or other piece of state but those the access tables give it. -/
def Obligations.InstructionsWriteOnlyWhatTheTablesList : Prop :=
  ∀ (i : Instr) (s t : State), exec i s = .next t →
    Frame (regsWritten i) (storedAddrs i s) (partsWritten i) s t

/-- 10_state.md R18: an instruction's effect does not depend on a register outside the "reads" column: from
two states that agree on the registers it reads and on everything but registers, it leaves two states
that agree on everything but registers, and every register is either written alike or unchanged in
both. -/
def Obligations.RegistersOutsideTheReadTableDoNotMatter : Prop :=
  ∀ (i : Instr) (s u : State), u = { s with v := u.v } →
    (∀ r ∈ regsRead i, u.getV r = s.getV r) →
    ∃ t w, exec i s = .next t ∧ exec i u = .next w ∧ w = { t with v := w.v } ∧
      ∀ r, w.getV r = t.getV r ∨ (w.getV r = u.getV r ∧ t.getV r = s.getV r)

/-- 10_state.md R17: the seven flag-writing instructions leave VF at 0 or 1 on every execution, and any
other instruction changes VF only as a destination that names it. -/
def Obligations.FlagInstructionsLeaveVFZeroOrOne : Prop :=
  ∀ (i : Instr) (s t : State), exec i s = .next t →
    if writesFlag i = true then t.getV vf = 0 ∨ t.getV vf = 1
    else vf ∉ regsWritten i → t.getV vf = s.getV vf

/-- The model's invariant (20_memory.md R40 by log 5; 10_state.md R26; 60_exceptions.md R113, R117,
decision D13, log 3): every
step keeps it, from every state, reachable or not. -/
def Obligations.StepKeepsTheInvariant : Prop :=
  ∀ s t : State, s.Inv → step s = .next t → t.Inv

/-- The invariant holds right after reset. -/
def Obligations.ResetMeetsTheInvariant : Prop := State.reset.Inv

/-- 60_exceptions.md R123: the invariant holds in every state that a boot, cycles and key transitions, in any
order, can reach. -/
def Obligations.ReachableStatesMeetTheInvariant : Prop :=
  ∀ s : State, Reachable s → s.Inv

/-- 10_state.md R19, decision D2: no program can observe bits 15:12 of PC: from two states that differ in
those bits (and in those of stacked and recorded addresses) alone, one step leads to two states that differ
so, or stops both with the same cause. -/
def Obligations.HighPcBitsAreUnobservable : Prop :=
  ∀ s t : State, s.SamePcLow12 t →
    (∃ s' t', step s = .next s' ∧ step t = .next t' ∧ s'.SamePcLow12 t') ∨
    (∃ c a b, step s = .fault (.halted c a) ∧ step t = .fault (.halted c b) ∧ SameLow12 a b)

/-! The host's moves -/

/-- 10_state.md R33, R31, decision D18: a key transition sets the key's level; it sets the latch exactly when
the key goes from up to down; a release, and a press of a key that is down, leave the latch. -/
def Obligations.KeyTransitionSetsLevelAndLatch : Prop :=
  ∀ (k : KeyIdx) (p : Bool) (s : State),
    (setKeyState k p s).getKey k = p ∧
    (∀ j, j ≠ k → (setKeyState k p s).getKey j = s.getKey j) ∧
    (setKeyState k p s).latch = (if p = true ∧ s.getKey k = false then some k else s.latch) ∧
    setKeyState k p s =
      { s with key := (setKeyState k p s).key, latch := (setKeyState k p s).latch }

/-- 20_memory.md R51, decision D23: an image of at most 3584 bytes is placed verbatim at 0x200 and no other
byte changes; a longer one, or an unreadable source, fails with its own error. -/
def Obligations.ImageLoadPlacesTheBytes : Prop :=
  (∀ (bytes : List Byte) (s : State), bytes.length ≤ 3584 →
    ∃ t, loadImage (some bytes) s = .ok t ∧
      (∀ (k : Nat) (b : Byte), bytes[k]? = some b → t.mem.read (0x200 + k) = b) ∧
      (∀ a < 4096, (a < 0x200 ∨ 0x200 + bytes.length ≤ a) → t.mem.read a = s.mem.read a) ∧
      t = { s with mem := t.mem }) ∧
  (∀ (bytes : List Byte) (s : State), 3584 < bytes.length →
    loadImage (some bytes) s = .error (.imageTooLarge bytes.length)) ∧
  (∀ s : State, loadImage none s = .error .unreadable)

/-- 10_state.md R38, 70_reset_and_hazards.md R131: what reset leaves at any set-up. The zero timers, stack,
display, keys, the empty latch and the Running mode are the spec's own decision D15 (log 9), the default
font and parameters are D16, D3, D4, D10 (log 4, 8). -/
def Obligations.ResetLeavesTheSpecifiedState : Prop :=
  (∀ c : Setup,
    (∀ r, (hostReset c).getV r = 0) ∧ (hostReset c).i = 0 ∧ (hostReset c).pc = 0x200 ∧
    (hostReset c).sp = 0 ∧ (∀ j, (hostReset c).getStack j = 0) ∧ (hostReset c).dt = 0 ∧
    (hostReset c).st = 0 ∧ (∀ px py, (hostReset c).pixel px py = false) ∧
    (∀ k, (hostReset c).getKey k = false) ∧ (hostReset c).latch = none ∧
    (hostReset c).mode = .running ∧ (hostReset c).params = c.params ∧
    (∀ k : Fin 80, (hostReset c).mem.read k.val = c.font[k.val]) ∧
    (∀ a, 80 ≤ a → a < 4096 → (hostReset c).mem.read a = 0)) ∧
  hostReset defaultSetup = State.reset
end

