-- ==== Sys2Proof/Laws/Decode.lean ====
section
/-! SUPPORT. The fields of a word of each shape (30_encoding.md R57, R58). -/

namespace Sys2Proof

/-! Shape A: op, nnn -/

@[simp] theorem fieldOp_address (op : Nibble) (nnn : Addr12) : fieldOp (op ++ nnn) = op := by
  rw [fieldOp, BitVec.extractLsb'_append_eq_of_le (by decide)]
  simp

@[simp] theorem fieldNNN_address (op : Nibble) (nnn : Addr12) : fieldNNN (op ++ nnn) = nnn := by
  rw [fieldNNN, BitVec.extractLsb'_append_eq_of_add_le (by decide)]
  simp

/-! Shapes XK and X: op, x, kk -/

@[simp] theorem fieldOp_byte (op x : Nibble) (kk : Byte) : fieldOp (op ++ x ++ kk) = op := by
  rw [fieldOp, BitVec.extractLsb'_append_eq_of_le (by decide),
    BitVec.extractLsb'_append_eq_of_le (by decide)]
  simp

@[simp] theorem fieldX_byte (op x : Nibble) (kk : Byte) : fieldX (op ++ x ++ kk) = x := by
  rw [fieldX, BitVec.extractLsb'_append_eq_of_le (by decide),
    BitVec.extractLsb'_append_eq_of_add_le (by decide)]
  simp

@[simp] theorem fieldKK_byte (op x : Nibble) (kk : Byte) : fieldKK (op ++ x ++ kk) = kk := by
  rw [fieldKK, BitVec.extractLsb'_append_eq_of_add_le (by decide)]
  simp

/-! Shapes XY and XYN: op, x, y, n -/

@[simp] theorem fieldOp_nibbles (op x y n : Nibble) : fieldOp (op ++ x ++ y ++ n) = op := by
  rw [fieldOp, BitVec.extractLsb'_append_eq_of_le (by decide),
    BitVec.extractLsb'_append_eq_of_le (by decide), BitVec.extractLsb'_append_eq_of_le (by decide)]
  simp

@[simp] theorem fieldX_nibbles (op x y n : Nibble) : fieldX (op ++ x ++ y ++ n) = x := by
  rw [fieldX, BitVec.extractLsb'_append_eq_of_le (by decide),
    BitVec.extractLsb'_append_eq_of_le (by decide),
    BitVec.extractLsb'_append_eq_of_add_le (by decide)]
  simp

@[simp] theorem fieldY_nibbles (op x y n : Nibble) : fieldY (op ++ x ++ y ++ n) = y := by
  rw [fieldY, BitVec.extractLsb'_append_eq_of_le (by decide),
    BitVec.extractLsb'_append_eq_of_add_le (by decide)]
  simp

@[simp] theorem fieldN_nibbles (op x y n : Nibble) : fieldN (op ++ x ++ y ++ n) = n := by
  rw [fieldN, BitVec.extractLsb'_append_eq_of_add_le (by decide)]
  simp

/-- A word is its four nibbles. -/
theorem word_eq_nibbles (w : Word) :
    w = fieldOp w ++ fieldX w ++ fieldY w ++ fieldN w := by
  apply BitVec.eq_of_getLsbD_eq
  intro k hk
  simp only [BitVec.getLsbD_append, fieldOp, fieldX, fieldY, fieldN, BitVec.getLsbD_extractLsb']
  rcases Nat.lt_or_ge k 4 with h | h
  · simp [h]
  · rcases Nat.lt_or_ge k 8 with h' | h'
    · simp [show ¬ k < 4 by omega, show k - 4 < 4 by omega, show 4 + (k - 4) = k by omega]
    · rcases Nat.lt_or_ge k 12 with h'' | h''
      · simp [show ¬ k < 4 by omega, show ¬ k - 4 < 4 by omega, show k - 4 - 4 < 4 by omega,
          show 8 + (k - 4 - 4) = k by omega]
      · simp [show ¬ k < 4 by omega, show ¬ k - 4 < 4 by omega, show ¬ k - 4 - 4 < 4 by omega,
          show k - 4 - 4 - 4 < 4 by omega, show 12 + (k - 4 - 4 - 4) = k by omega]

/-- A word is its primary nibble and its address field. -/
theorem word_eq_address (w : Word) : w = fieldOp w ++ fieldNNN w := by
  apply BitVec.eq_of_getLsbD_eq
  intro k hk
  simp only [BitVec.getLsbD_append, fieldOp, fieldNNN, BitVec.getLsbD_extractLsb']
  rcases Nat.lt_or_ge k 12 with h | h
  · simp [h]
  · simp [show ¬ k < 12 by omega, show k - 12 < 4 by omega, show 12 + (k - 12) = k by omega]

/-- A word is its two upper nibbles and its low byte. -/
theorem word_eq_byte (w : Word) : w = fieldOp w ++ fieldX w ++ fieldKK w := by
  apply BitVec.eq_of_getLsbD_eq
  intro k hk
  simp only [BitVec.getLsbD_append, fieldOp, fieldX, fieldKK, BitVec.getLsbD_extractLsb']
  rcases Nat.lt_or_ge k 8 with h | h
  · simp [h]
  · rcases Nat.lt_or_ge k 12 with h' | h'
    · simp [show ¬ k < 8 by omega, show k - 8 < 4 by omega, show 8 + (k - 8) = k by omega]
    · simp [show ¬ k < 8 by omega, show ¬ k - 8 < 4 by omega, show k - 8 - 4 < 4 by omega,
        show 12 + (k - 8 - 4) = k by omega]

end Sys2Proof
end

