-- ==== Sys2Proof/Laws/State.lean ====
section
/-! SUPPORT. The small lemmas of State: for each update, what each field holds after it (true by rfl),
and the reads of registers, stack entries and keys after a write. -/

namespace Sys2Proof.Machine

/-! setV -/

@[simp] theorem State.setV_v (s : State) (x : RegIdx) (b : Byte) :
    (s.setV x b).v = s.v.set x.toNat b x.isLt := rfl
@[simp] theorem State.setV_i (s : State) (x : RegIdx) (b : Byte) :
    (s.setV x b).i = s.i := rfl
@[simp] theorem State.setV_pc (s : State) (x : RegIdx) (b : Byte) :
    (s.setV x b).pc = s.pc := rfl
@[simp] theorem State.setV_sp (s : State) (x : RegIdx) (b : Byte) :
    (s.setV x b).sp = s.sp := rfl
@[simp] theorem State.setV_stack (s : State) (x : RegIdx) (b : Byte) :
    (s.setV x b).stack = s.stack := rfl
@[simp] theorem State.setV_dt (s : State) (x : RegIdx) (b : Byte) :
    (s.setV x b).dt = s.dt := rfl
@[simp] theorem State.setV_st (s : State) (x : RegIdx) (b : Byte) :
    (s.setV x b).st = s.st := rfl
@[simp] theorem State.setV_mem (s : State) (x : RegIdx) (b : Byte) :
    (s.setV x b).mem = s.mem := rfl
@[simp] theorem State.setV_disp (s : State) (x : RegIdx) (b : Byte) :
    (s.setV x b).disp = s.disp := rfl
@[simp] theorem State.setV_key (s : State) (x : RegIdx) (b : Byte) :
    (s.setV x b).key = s.key := rfl
@[simp] theorem State.setV_latch (s : State) (x : RegIdx) (b : Byte) :
    (s.setV x b).latch = s.latch := rfl
@[simp] theorem State.setV_mode (s : State) (x : RegIdx) (b : Byte) :
    (s.setV x b).mode = s.mode := rfl
@[simp] theorem State.setV_params (s : State) (x : RegIdx) (b : Byte) :
    (s.setV x b).params = s.params := rfl
@[simp] theorem State.setV_draws (s : State) (x : RegIdx) (b : Byte) :
    (s.setV x b).draws = s.draws := rfl
@[simp] theorem State.setV_diag (s : State) (x : RegIdx) (b : Byte) :
    (s.setV x b).diag = s.diag := rfl

/-! setI -/

@[simp] theorem State.setI_v (s : State) (w : Word) :
    (s.setI w).v = s.v := rfl
@[simp] theorem State.setI_i (s : State) (w : Word) :
    (s.setI w).i = w := rfl
@[simp] theorem State.setI_pc (s : State) (w : Word) :
    (s.setI w).pc = s.pc := rfl
@[simp] theorem State.setI_sp (s : State) (w : Word) :
    (s.setI w).sp = s.sp := rfl
@[simp] theorem State.setI_stack (s : State) (w : Word) :
    (s.setI w).stack = s.stack := rfl
@[simp] theorem State.setI_dt (s : State) (w : Word) :
    (s.setI w).dt = s.dt := rfl
@[simp] theorem State.setI_st (s : State) (w : Word) :
    (s.setI w).st = s.st := rfl
@[simp] theorem State.setI_mem (s : State) (w : Word) :
    (s.setI w).mem = s.mem := rfl
@[simp] theorem State.setI_disp (s : State) (w : Word) :
    (s.setI w).disp = s.disp := rfl
@[simp] theorem State.setI_key (s : State) (w : Word) :
    (s.setI w).key = s.key := rfl
@[simp] theorem State.setI_latch (s : State) (w : Word) :
    (s.setI w).latch = s.latch := rfl
@[simp] theorem State.setI_mode (s : State) (w : Word) :
    (s.setI w).mode = s.mode := rfl
@[simp] theorem State.setI_params (s : State) (w : Word) :
    (s.setI w).params = s.params := rfl
@[simp] theorem State.setI_draws (s : State) (w : Word) :
    (s.setI w).draws = s.draws := rfl
@[simp] theorem State.setI_diag (s : State) (w : Word) :
    (s.setI w).diag = s.diag := rfl

/-! setPc -/

@[simp] theorem State.setPc_v (s : State) (w : Word) :
    (s.setPc w).v = s.v := rfl
@[simp] theorem State.setPc_i (s : State) (w : Word) :
    (s.setPc w).i = s.i := rfl
@[simp] theorem State.setPc_pc (s : State) (w : Word) :
    (s.setPc w).pc = w := rfl
@[simp] theorem State.setPc_sp (s : State) (w : Word) :
    (s.setPc w).sp = s.sp := rfl
@[simp] theorem State.setPc_stack (s : State) (w : Word) :
    (s.setPc w).stack = s.stack := rfl
@[simp] theorem State.setPc_dt (s : State) (w : Word) :
    (s.setPc w).dt = s.dt := rfl
@[simp] theorem State.setPc_st (s : State) (w : Word) :
    (s.setPc w).st = s.st := rfl
@[simp] theorem State.setPc_mem (s : State) (w : Word) :
    (s.setPc w).mem = s.mem := rfl
@[simp] theorem State.setPc_disp (s : State) (w : Word) :
    (s.setPc w).disp = s.disp := rfl
@[simp] theorem State.setPc_key (s : State) (w : Word) :
    (s.setPc w).key = s.key := rfl
@[simp] theorem State.setPc_latch (s : State) (w : Word) :
    (s.setPc w).latch = s.latch := rfl
@[simp] theorem State.setPc_mode (s : State) (w : Word) :
    (s.setPc w).mode = s.mode := rfl
@[simp] theorem State.setPc_params (s : State) (w : Word) :
    (s.setPc w).params = s.params := rfl
@[simp] theorem State.setPc_draws (s : State) (w : Word) :
    (s.setPc w).draws = s.draws := rfl
@[simp] theorem State.setPc_diag (s : State) (w : Word) :
    (s.setPc w).diag = s.diag := rfl

/-! setDt -/

@[simp] theorem State.setDt_v (s : State) (b : Byte) :
    (s.setDt b).v = s.v := rfl
@[simp] theorem State.setDt_i (s : State) (b : Byte) :
    (s.setDt b).i = s.i := rfl
@[simp] theorem State.setDt_pc (s : State) (b : Byte) :
    (s.setDt b).pc = s.pc := rfl
@[simp] theorem State.setDt_sp (s : State) (b : Byte) :
    (s.setDt b).sp = s.sp := rfl
@[simp] theorem State.setDt_stack (s : State) (b : Byte) :
    (s.setDt b).stack = s.stack := rfl
@[simp] theorem State.setDt_dt (s : State) (b : Byte) :
    (s.setDt b).dt = b := rfl
@[simp] theorem State.setDt_st (s : State) (b : Byte) :
    (s.setDt b).st = s.st := rfl
@[simp] theorem State.setDt_mem (s : State) (b : Byte) :
    (s.setDt b).mem = s.mem := rfl
@[simp] theorem State.setDt_disp (s : State) (b : Byte) :
    (s.setDt b).disp = s.disp := rfl
@[simp] theorem State.setDt_key (s : State) (b : Byte) :
    (s.setDt b).key = s.key := rfl
@[simp] theorem State.setDt_latch (s : State) (b : Byte) :
    (s.setDt b).latch = s.latch := rfl
@[simp] theorem State.setDt_mode (s : State) (b : Byte) :
    (s.setDt b).mode = s.mode := rfl
@[simp] theorem State.setDt_params (s : State) (b : Byte) :
    (s.setDt b).params = s.params := rfl
@[simp] theorem State.setDt_draws (s : State) (b : Byte) :
    (s.setDt b).draws = s.draws := rfl
@[simp] theorem State.setDt_diag (s : State) (b : Byte) :
    (s.setDt b).diag = s.diag := rfl

/-! setSt -/

@[simp] theorem State.setSt_v (s : State) (b : Byte) :
    (s.setSt b).v = s.v := rfl
@[simp] theorem State.setSt_i (s : State) (b : Byte) :
    (s.setSt b).i = s.i := rfl
@[simp] theorem State.setSt_pc (s : State) (b : Byte) :
    (s.setSt b).pc = s.pc := rfl
@[simp] theorem State.setSt_sp (s : State) (b : Byte) :
    (s.setSt b).sp = s.sp := rfl
@[simp] theorem State.setSt_stack (s : State) (b : Byte) :
    (s.setSt b).stack = s.stack := rfl
@[simp] theorem State.setSt_dt (s : State) (b : Byte) :
    (s.setSt b).dt = s.dt := rfl
@[simp] theorem State.setSt_st (s : State) (b : Byte) :
    (s.setSt b).st = b := rfl
@[simp] theorem State.setSt_mem (s : State) (b : Byte) :
    (s.setSt b).mem = s.mem := rfl
@[simp] theorem State.setSt_disp (s : State) (b : Byte) :
    (s.setSt b).disp = s.disp := rfl
@[simp] theorem State.setSt_key (s : State) (b : Byte) :
    (s.setSt b).key = s.key := rfl
@[simp] theorem State.setSt_latch (s : State) (b : Byte) :
    (s.setSt b).latch = s.latch := rfl
@[simp] theorem State.setSt_mode (s : State) (b : Byte) :
    (s.setSt b).mode = s.mode := rfl
@[simp] theorem State.setSt_params (s : State) (b : Byte) :
    (s.setSt b).params = s.params := rfl
@[simp] theorem State.setSt_draws (s : State) (b : Byte) :
    (s.setSt b).draws = s.draws := rfl
@[simp] theorem State.setSt_diag (s : State) (b : Byte) :
    (s.setSt b).diag = s.diag := rfl

/-! memWrite -/

@[simp] theorem State.memWrite_v (s : State) (a : Nat) (bs : List Byte) :
    (s.memWrite a bs).v = s.v := rfl
@[simp] theorem State.memWrite_i (s : State) (a : Nat) (bs : List Byte) :
    (s.memWrite a bs).i = s.i := rfl
@[simp] theorem State.memWrite_pc (s : State) (a : Nat) (bs : List Byte) :
    (s.memWrite a bs).pc = s.pc := rfl
@[simp] theorem State.memWrite_sp (s : State) (a : Nat) (bs : List Byte) :
    (s.memWrite a bs).sp = s.sp := rfl
@[simp] theorem State.memWrite_stack (s : State) (a : Nat) (bs : List Byte) :
    (s.memWrite a bs).stack = s.stack := rfl
@[simp] theorem State.memWrite_dt (s : State) (a : Nat) (bs : List Byte) :
    (s.memWrite a bs).dt = s.dt := rfl
@[simp] theorem State.memWrite_st (s : State) (a : Nat) (bs : List Byte) :
    (s.memWrite a bs).st = s.st := rfl
@[simp] theorem State.memWrite_mem (s : State) (a : Nat) (bs : List Byte) :
    (s.memWrite a bs).mem = s.mem.writeAll a bs := rfl
@[simp] theorem State.memWrite_disp (s : State) (a : Nat) (bs : List Byte) :
    (s.memWrite a bs).disp = s.disp := rfl
@[simp] theorem State.memWrite_key (s : State) (a : Nat) (bs : List Byte) :
    (s.memWrite a bs).key = s.key := rfl
@[simp] theorem State.memWrite_latch (s : State) (a : Nat) (bs : List Byte) :
    (s.memWrite a bs).latch = s.latch := rfl
@[simp] theorem State.memWrite_mode (s : State) (a : Nat) (bs : List Byte) :
    (s.memWrite a bs).mode = s.mode := rfl
@[simp] theorem State.memWrite_params (s : State) (a : Nat) (bs : List Byte) :
    (s.memWrite a bs).params = s.params := rfl
@[simp] theorem State.memWrite_draws (s : State) (a : Nat) (bs : List Byte) :
    (s.memWrite a bs).draws = s.draws := rfl
@[simp] theorem State.memWrite_diag (s : State) (a : Nat) (bs : List Byte) :
    (s.memWrite a bs).diag = s.diag := rfl

/-! setStack -/

@[simp] theorem State.setStack_v (s : State) (j : Fin 16) (w : Word) :
    (s.setStack j w).v = s.v := rfl
@[simp] theorem State.setStack_i (s : State) (j : Fin 16) (w : Word) :
    (s.setStack j w).i = s.i := rfl
@[simp] theorem State.setStack_pc (s : State) (j : Fin 16) (w : Word) :
    (s.setStack j w).pc = s.pc := rfl
@[simp] theorem State.setStack_sp (s : State) (j : Fin 16) (w : Word) :
    (s.setStack j w).sp = s.sp := rfl
@[simp] theorem State.setStack_stack (s : State) (j : Fin 16) (w : Word) :
    (s.setStack j w).stack = s.stack.set j.val w j.isLt := rfl
@[simp] theorem State.setStack_dt (s : State) (j : Fin 16) (w : Word) :
    (s.setStack j w).dt = s.dt := rfl
@[simp] theorem State.setStack_st (s : State) (j : Fin 16) (w : Word) :
    (s.setStack j w).st = s.st := rfl
@[simp] theorem State.setStack_mem (s : State) (j : Fin 16) (w : Word) :
    (s.setStack j w).mem = s.mem := rfl
@[simp] theorem State.setStack_disp (s : State) (j : Fin 16) (w : Word) :
    (s.setStack j w).disp = s.disp := rfl
@[simp] theorem State.setStack_key (s : State) (j : Fin 16) (w : Word) :
    (s.setStack j w).key = s.key := rfl
@[simp] theorem State.setStack_latch (s : State) (j : Fin 16) (w : Word) :
    (s.setStack j w).latch = s.latch := rfl
@[simp] theorem State.setStack_mode (s : State) (j : Fin 16) (w : Word) :
    (s.setStack j w).mode = s.mode := rfl
@[simp] theorem State.setStack_params (s : State) (j : Fin 16) (w : Word) :
    (s.setStack j w).params = s.params := rfl
@[simp] theorem State.setStack_draws (s : State) (j : Fin 16) (w : Word) :
    (s.setStack j w).draws = s.draws := rfl
@[simp] theorem State.setStack_diag (s : State) (j : Fin 16) (w : Word) :
    (s.setStack j w).diag = s.diag := rfl

/-! takeFault -/

@[simp] theorem State.takeFault_v (s : State) (c : FaultCause) :
    (s.takeFault c).v = s.v := rfl
@[simp] theorem State.takeFault_i (s : State) (c : FaultCause) :
    (s.takeFault c).i = s.i := rfl
@[simp] theorem State.takeFault_pc (s : State) (c : FaultCause) :
    (s.takeFault c).pc = s.pc := rfl
@[simp] theorem State.takeFault_sp (s : State) (c : FaultCause) :
    (s.takeFault c).sp = s.sp := rfl
@[simp] theorem State.takeFault_stack (s : State) (c : FaultCause) :
    (s.takeFault c).stack = s.stack := rfl
@[simp] theorem State.takeFault_dt (s : State) (c : FaultCause) :
    (s.takeFault c).dt = s.dt := rfl
@[simp] theorem State.takeFault_st (s : State) (c : FaultCause) :
    (s.takeFault c).st = s.st := rfl
@[simp] theorem State.takeFault_mem (s : State) (c : FaultCause) :
    (s.takeFault c).mem = s.mem := rfl
@[simp] theorem State.takeFault_disp (s : State) (c : FaultCause) :
    (s.takeFault c).disp = s.disp := rfl
@[simp] theorem State.takeFault_key (s : State) (c : FaultCause) :
    (s.takeFault c).key = s.key := rfl
@[simp] theorem State.takeFault_latch (s : State) (c : FaultCause) :
    (s.takeFault c).latch = s.latch := rfl
@[simp] theorem State.takeFault_mode (s : State) (c : FaultCause) :
    (s.takeFault c).mode = .halted c s.fetchAddr := rfl
@[simp] theorem State.takeFault_params (s : State) (c : FaultCause) :
    (s.takeFault c).params = s.params := rfl
@[simp] theorem State.takeFault_draws (s : State) (c : FaultCause) :
    (s.takeFault c).draws = s.draws := rfl
@[simp] theorem State.takeFault_diag (s : State) (c : FaultCause) :
    (s.takeFault c).diag = s.diag := rfl

/-! tick -/

@[simp] theorem State.tick_v (s : State) :
    (s.tick).v = s.v := rfl
@[simp] theorem State.tick_i (s : State) :
    (s.tick).i = s.i := rfl
@[simp] theorem State.tick_pc (s : State) :
    (s.tick).pc = s.pc := rfl
@[simp] theorem State.tick_sp (s : State) :
    (s.tick).sp = s.sp := rfl
@[simp] theorem State.tick_stack (s : State) :
    (s.tick).stack = s.stack := rfl
@[simp] theorem State.tick_dt (s : State) :
    (s.tick).dt = tickByte s.dt := rfl
@[simp] theorem State.tick_st (s : State) :
    (s.tick).st = tickByte s.st := rfl
@[simp] theorem State.tick_mem (s : State) :
    (s.tick).mem = s.mem := rfl
@[simp] theorem State.tick_disp (s : State) :
    (s.tick).disp = s.disp := rfl
@[simp] theorem State.tick_key (s : State) :
    (s.tick).key = s.key := rfl
@[simp] theorem State.tick_latch (s : State) :
    (s.tick).latch = s.latch := rfl
@[simp] theorem State.tick_mode (s : State) :
    (s.tick).mode = s.mode := rfl
@[simp] theorem State.tick_params (s : State) :
    (s.tick).params = s.params := rfl
@[simp] theorem State.tick_draws (s : State) :
    (s.tick).draws = s.draws := rfl
@[simp] theorem State.tick_diag (s : State) :
    (s.tick).diag = s.diag := rfl

/-! report -/

@[simp] theorem State.report_v (s : State) (c : Condition) (a w : Word) :
    (s.report c a w).v = s.v := rfl
@[simp] theorem State.report_i (s : State) (c : Condition) (a w : Word) :
    (s.report c a w).i = s.i := rfl
@[simp] theorem State.report_pc (s : State) (c : Condition) (a w : Word) :
    (s.report c a w).pc = s.pc := rfl
@[simp] theorem State.report_sp (s : State) (c : Condition) (a w : Word) :
    (s.report c a w).sp = s.sp := rfl
@[simp] theorem State.report_stack (s : State) (c : Condition) (a w : Word) :
    (s.report c a w).stack = s.stack := rfl
@[simp] theorem State.report_dt (s : State) (c : Condition) (a w : Word) :
    (s.report c a w).dt = s.dt := rfl
@[simp] theorem State.report_st (s : State) (c : Condition) (a w : Word) :
    (s.report c a w).st = s.st := rfl
@[simp] theorem State.report_mem (s : State) (c : Condition) (a w : Word) :
    (s.report c a w).mem = s.mem := rfl
@[simp] theorem State.report_disp (s : State) (c : Condition) (a w : Word) :
    (s.report c a w).disp = s.disp := rfl
@[simp] theorem State.report_key (s : State) (c : Condition) (a w : Word) :
    (s.report c a w).key = s.key := rfl
@[simp] theorem State.report_latch (s : State) (c : Condition) (a w : Word) :
    (s.report c a w).latch = s.latch := rfl
@[simp] theorem State.report_mode (s : State) (c : Condition) (a w : Word) :
    (s.report c a w).mode = s.mode := rfl
@[simp] theorem State.report_params (s : State) (c : Condition) (a w : Word) :
    (s.report c a w).params = s.params := rfl
@[simp] theorem State.report_draws (s : State) (c : Condition) (a w : Word) :
    (s.report c a w).draws = s.draws := rfl
@[simp] theorem State.report_diag (s : State) (c : Condition) (a w : Word) :
    (s.report c a w).diag = s.diag ++ [⟨c, a, w⟩] := rfl

/-! beginCycle -/

@[simp] theorem State.beginCycle_v (s : State) :
    (s.beginCycle).v = s.v := rfl
@[simp] theorem State.beginCycle_i (s : State) :
    (s.beginCycle).i = s.i := rfl
@[simp] theorem State.beginCycle_pc (s : State) :
    (s.beginCycle).pc = s.pc + 2 := rfl
@[simp] theorem State.beginCycle_sp (s : State) :
    (s.beginCycle).sp = s.sp := rfl
@[simp] theorem State.beginCycle_stack (s : State) :
    (s.beginCycle).stack = s.stack := rfl
@[simp] theorem State.beginCycle_dt (s : State) :
    (s.beginCycle).dt = s.dt := rfl
@[simp] theorem State.beginCycle_st (s : State) :
    (s.beginCycle).st = s.st := rfl
@[simp] theorem State.beginCycle_mem (s : State) :
    (s.beginCycle).mem = s.mem := rfl
@[simp] theorem State.beginCycle_disp (s : State) :
    (s.beginCycle).disp = s.disp := rfl
@[simp] theorem State.beginCycle_key (s : State) :
    (s.beginCycle).key = s.key := rfl
@[simp] theorem State.beginCycle_latch (s : State) :
    (s.beginCycle).latch = s.latch := rfl
@[simp] theorem State.beginCycle_mode (s : State) :
    (s.beginCycle).mode = s.mode := rfl
@[simp] theorem State.beginCycle_params (s : State) :
    (s.beginCycle).params = s.params := rfl
@[simp] theorem State.beginCycle_draws (s : State) :
    (s.beginCycle).draws = s.draws := rfl
@[simp] theorem State.beginCycle_diag (s : State) :
    (s.beginCycle).diag = s.diag := rfl

/-! The pairs of takeLatch and drawByte -/

@[simp] theorem State.takeLatch_fst (s : State) : s.takeLatch.1 = s.latch := rfl
@[simp] theorem State.takeLatch_snd (s : State) : s.takeLatch.2 = { s with latch := none } := rfl
@[simp] theorem State.drawByte_fst (s : State) : s.drawByte.1 = Config.randomByte s.draws := rfl
@[simp] theorem State.drawByte_snd (s : State) :
    s.drawByte.2 = { s with draws := s.draws + 1 } := rfl

/-! Reads of one register, entry or key: each depends on one field of State only -/

theorem State.getV_eq (s : State) (x : RegIdx) : s.getV x = s.v[x.toNat]'x.isLt := rfl

/-- Two states with the same register file have the same registers. -/
theorem State.getV_congr {s t : State} (h : t.v = s.v) (x : RegIdx) : t.getV x = s.getV x := by
  simp only [State.getV, h]

/-- A register after a write: the byte written, or what it held. -/
theorem State.getV_setV (s : State) (x y : RegIdx) (b : Byte) :
    (s.setV x b).getV y = if y = x then b else s.getV y := by
  have hx := x.isLt
  have hy := y.isLt
  simp only [State.getV, State.setV, Vector.getElem_set]
  by_cases h : y = x
  · simp [h]
  · have : x.toNat ≠ y.toNat := fun e => h (BitVec.eq_of_toNat_eq e.symm)
    simp [h, this]

@[simp] theorem State.getV_setV_same (s : State) (x : RegIdx) (b : Byte) :
    (s.setV x b).getV x = b := by
  simp [State.getV_setV]

/-- A stack entry after a write. -/
theorem State.getStack_setStack (s : State) (j k : Fin 16) (w : Word) :
    (s.setStack j w).getStack k = if k = j then w else s.getStack k := by
  simp only [State.getStack, State.setStack, Vector.getElem_set]
  by_cases h : k = j
  · simp [h]
  · have : j.val ≠ k.val := fun e => h (Fin.ext e.symm)
    simp [h, this]

/-- The register file is determined by its registers. -/
theorem State.v_ext {s t : State} (h : ∀ x, t.getV x = s.getV x) : t.v = s.v := by
  apply Vector.ext
  intro k hk
  have e := h (BitVec.ofNat 4 k)
  simpa [State.getV, Nat.mod_eq_of_lt hk] using e

/-- A flag-writing result (42_alu.md R85): VF holds the flag, whatever x is; Vx the result if x is not
F; every other register what it held. -/
theorem State.getV_setResultFlag (s : State) (x y : RegIdx) (b : Byte) (f : Bool) :
    (s.setResultFlag x b f).getV y
      = if y = vf then flagByte f else if y = x then b else s.getV y := by
  simp only [State.setResultFlag, State.getV_setV]

/-- A flag-writing result changes the register file alone. -/
theorem State.setResultFlag_eq (s : State) (x : RegIdx) (b : Byte) (f : Bool) :
    s.setResultFlag x b f = { s with v := (s.setResultFlag x b f).v } := rfl

end Sys2Proof.Machine
end

