-- ==== Sys2Proof/Laws/Display.lean ====
section
/-! SUPPORT. What a toggle does to one pixel, and what the blit and the display instructions leave
alone (40_display.md). -/

namespace Sys2Proof.Machine

/-- A toggle flips its own pixel and no other. -/
theorem Display.get_toggle (d : Display) (px qx : Fin 64) (py qy : Fin 32) :
    Display.get (Display.toggle d px py) qx qy =
      if qx = px ∧ qy = py then !(Display.get d qx qy) else Display.get d qx qy := by
  have hx := qx.isLt
  have hy := qy.isLt
  unfold Display.get Display.toggle
  by_cases h : qx = px
  · subst h
    by_cases h' : qy = py
    · subst h'
      simp
    · have : py.val ≠ qy.val := fun e => h' (Fin.ext e.symm)
      simp [h', this]
  · have : px.val ≠ qx.val := fun e => h (Fin.ext e.symm)
    simp [h, this]

/-- Every pixel of the clear display is 0. -/
@[simp] theorem Display.get_clear (px : Fin 64) (py : Fin 32) :
    Display.get clearDisplay px py = false := by
  simp [Display.get, clearDisplay]

/-- A display is determined by its pixels. -/
theorem Display.ext {d e : Display} (h : ∀ px py, Display.get d px py = Display.get e px py) :
    d = e := by
  apply Vector.ext
  intro k hk
  apply Vector.ext
  intro l hl
  exact h ⟨k, hk⟩ ⟨l, hl⟩

/-- A sprite of no rows changes no pixel and collides with nothing (40_display.md R76, decision D8). -/
@[simp] theorem State.blit_zero (s : State) (ox oy : Nat) : s.blit ox oy 0 = (s.disp, false) := rfl

/-- One more row (40_display.md R74). -/
theorem State.blit_succ (s : State) (ox oy h : Nat) :
    s.blit ox oy (h + 1) =
      blitRow ox oy h (s.mem.read (s.indexAddr h)) (s.blit ox oy h) := by
  simp [State.blit, List.range_succ]

end Sys2Proof.Machine
end

