-- ==== Sys2Proof/Laws/Memory.lean ====
section
/-! SUPPORT. Every memory operation keeps the canonical form, and what one byte reads as after a write
(20_memory.md R40). -/

namespace Sys2Proof.Machine

theorem maskAddr_lt (a : Nat) : maskAddr a < 4096 := Nat.mod_lt _ (by decide)

@[simp] theorem maskAddr_maskAddr (a : Nat) : maskAddr (maskAddr a) = maskAddr a := by
  simp [maskAddr]

/-- The mask is the bitwise one of 20_memory.md R40. -/
theorem maskAddr_eq_and (a : Nat) : maskAddr a = a &&& 0xFFF :=
  (Nat.and_two_pow_sub_one_eq_mod a 12).symm

@[simp] theorem Memory.read_maskAddr (m : Memory) (a : Nat) : m.read (maskAddr a) = m.read a := by
  simp [Memory.read]

/-! What the list gives an address after an operation -/

theorem Memory.lookup_insert (m : Memory) (a c : Nat) (b : Byte) :
    (m.insert a b).lookup c = if c = a then some b else m.lookup c := by
  induction m with
  | nil =>
    rcases eq_or_ne c a with rfl | h
    · simp [Memory.insert, Memory.lookup]
    · simp [Memory.insert, Memory.lookup, h, h.symm]
  | cons d m ih =>
    simp only [Memory.insert]
    rcases eq_or_ne c a with rfl | h
    · split
      · simp [Memory.lookup]
      · split
        · simp [Memory.lookup]
        · have hd : d.1 ≠ c := by omega
          simp [Memory.lookup, ih, hd]
    · split
      · simp [Memory.lookup, h.symm]
      · split
        · next hd => simp [Memory.lookup, h.symm, ← hd]
        · simp [Memory.lookup, ih, h]

theorem Memory.lookup_erase (m : Memory) (a c : Nat) :
    (m.erase a).lookup c = if c = a then none else m.lookup c := by
  induction m with
  | nil => simp [Memory.erase, Memory.lookup]
  | cons d m ih =>
    simp only [Memory.erase]
    rcases eq_or_ne c a with rfl | h
    · by_cases hd : d.1 = c <;> simp [hd, ih, Memory.lookup]
    · by_cases hd : d.1 = a
      · simp [hd, ih, h, h.symm, Memory.lookup]
      · simp [hd, ih, h, Memory.lookup]

/-- One byte after one write (20_memory.md R40): the byte written, at the same 12-bit address, and what
stood there anywhere else. -/
theorem Memory.read_write (m : Memory) (a c : Nat) (b : Byte) :
    (m.write a b).read c = if maskAddr c = maskAddr a then b else m.read c := by
  unfold Memory.write
  split
  · next h =>
    simp only [Memory.read, Memory.lookup_erase]
    by_cases hc : maskAddr c = maskAddr a <;> simp [hc, h]
  · simp only [Memory.read, Memory.lookup_insert]
    by_cases hc : maskAddr c = maskAddr a <;> simp [hc]

@[simp] theorem Memory.writeAll_nil (m : Memory) (a : Nat) : m.writeAll a [] = m := rfl

@[simp] theorem Memory.writeAll_cons (m : Memory) (a : Nat) (b : Byte) (bs : List Byte) :
    m.writeAll a (b :: bs) = (m.write a b).writeAll (a + 1) bs := rfl

/-! The canonical form is kept -/

theorem Memory.mem_insert {m : Memory} {a : Nat} {b : Byte} {c : Host.Cell}
    (h : c ∈ m.insert a b) : c = (a, b) ∨ c ∈ m := by
  induction m with
  | nil => simpa [Memory.insert] using h
  | cons d m ih =>
    simp only [Memory.insert] at h
    split at h
    · simpa using h
    · split at h
      · rcases List.mem_cons.mp h with h | h
        · exact .inl h
        · exact .inr (List.mem_cons_of_mem _ h)
      · rcases List.mem_cons.mp h with h | h
        · exact .inr (by simp [h])
        · rcases ih h with h | h
          · exact .inl h
          · exact .inr (List.mem_cons_of_mem _ h)

theorem Memory.mem_erase {m : Memory} {a : Nat} {c : Host.Cell} (h : c ∈ m.erase a) : c ∈ m := by
  induction m with
  | nil => simp [Memory.erase] at h
  | cons d m ih =>
    simp only [Memory.erase] at h
    split at h
    · exact List.mem_cons_of_mem _ (ih h)
    · rcases List.mem_cons.mp h with h | h
      · simp [h]
      · exact List.mem_cons_of_mem _ (ih h)

theorem Memory.insert_pairwise {m : Memory} (a : Nat) (b : Byte)
    (h : m.Pairwise (fun c d => c.1 < d.1)) : (m.insert a b).Pairwise (fun c d => c.1 < d.1) := by
  induction m with
  | nil => simp [Memory.insert]
  | cons d m ih =>
    obtain ⟨hd, hm⟩ := List.pairwise_cons.mp h
    simp only [Memory.insert]
    split
    · next ha =>
      refine List.pairwise_cons.mpr ⟨fun c hc => ?_, h⟩
      rcases List.mem_cons.mp hc with rfl | hc
      · exact ha
      · exact Nat.lt_trans ha (hd c hc)
    · split
      · next ha =>
        refine List.pairwise_cons.mpr ⟨fun c hc => ?_, hm⟩
        simpa [ha] using hd c hc
      · next h1 h2 =>
        refine List.pairwise_cons.mpr ⟨fun c hc => ?_, ih hm⟩
        rcases Memory.mem_insert hc with rfl | hc
        · show d.1 < a
          omega
        · exact hd c hc

theorem Memory.erase_pairwise {m : Memory} (a : Nat) (h : m.Pairwise (fun c d => c.1 < d.1)) :
    (m.erase a).Pairwise (fun c d => c.1 < d.1) := by
  induction m with
  | nil => simp [Memory.erase]
  | cons d m ih =>
    obtain ⟨hd, hm⟩ := List.pairwise_cons.mp h
    simp only [Memory.erase]
    split
    · exact ih hm
    · exact List.pairwise_cons.mpr ⟨fun c hc => hd c (Memory.mem_erase hc), ih hm⟩

/-- A write keeps the canonical form. -/
theorem Memory.write_wf {m : Memory} (a : Nat) (b : Byte) (h : m.wf) : (m.write a b).wf := by
  unfold Memory.write
  split
  · exact ⟨Memory.erase_pairwise _ h.1, fun c hc => h.2 c (Memory.mem_erase hc)⟩
  · next hb =>
    refine ⟨Memory.insert_pairwise _ _ h.1, fun c hc => ?_⟩
    rcases Memory.mem_insert hc with rfl | hc
    · exact ⟨maskAddr_lt a, hb⟩
    · exact h.2 c hc

/-- Any sequence of writes keeps the canonical form. -/
theorem Memory.writeAll_wf {m : Memory} (a : Nat) (bs : List Byte) (h : m.wf) :
    (m.writeAll a bs).wf := by
  induction bs generalizing m a with
  | nil => exact h
  | cons b bs ih => exact ih _ (Memory.write_wf a b h)

theorem Memory.nil_wf : Memory.wf [] := by simp [Memory.wf]

end Sys2Proof.Machine
end

