-- ==== Sys2Proof/Laws/Ops.lean ====
section
/-! SUPPORT. One lemma per shared operation that says all it can do: push, pop, the taking of a fault,
skips, ticks, the index advance, the register load. -/

namespace Sys2Proof.Machine

/-- All that `Push` can do (10_state.md R27). -/
theorem State.push_cases (s : State) (w : Word) :
    (s.params.stackMode = .fault ∧ s.sp.val = 16 ∧ s.push w = .error .stackOverflow) ∨
    ∃ (j : Fin 16) (n : Fin 17),
      s.push w = .ok { s.setStack j w with sp := n } ∧
      ((s.params.stackMode = .fault ∧ j.val = s.sp.val ∧ n.val = s.sp.val + 1) ∨
       (s.params.stackMode = .wrap ∧ j.val = s.sp.val % 16 ∧ n.val = (s.sp.val + 1) % 16)) := by
  unfold State.push
  cases hm : s.params.stackMode with
  | fault =>
    by_cases h : s.sp.val < 16
    · refine .inr ⟨⟨s.sp.val, h⟩, ⟨s.sp.val + 1, by omega⟩, ?_, .inl ⟨rfl, rfl, rfl⟩⟩
      simp [h]
    · have := s.sp.isLt
      exact .inl ⟨rfl, by omega, by simp [h]⟩
  | wrap => exact .inr ⟨_, _, rfl, .inr ⟨rfl, rfl, rfl⟩⟩

/-- All that `Pop` can do (10_state.md R28). -/
theorem State.pop_cases (s : State) :
    (s.params.stackMode = .fault ∧ s.sp.val = 0 ∧ s.pop = .error .stackUnderflow) ∨
    ∃ (j : Fin 16) (n : Fin 17),
      s.pop = .ok (s.getStack j, { s with sp := n }) ∧ j.val = n.val ∧
      ((s.params.stackMode = .fault ∧ s.sp.val ≠ 0 ∧ n.val = s.sp.val - 1) ∨
       (s.params.stackMode = .wrap ∧ n.val = (s.sp.val + 15) % 16)) := by
  unfold State.pop
  cases hm : s.params.stackMode with
  | fault =>
    by_cases h : s.sp.val = 0
    · exact .inl ⟨rfl, h, by simp [h]⟩
    · refine .inr ⟨⟨s.sp.val - 1, by omega⟩, ⟨s.sp.val - 1, by omega⟩, ?_, rfl, .inl ⟨rfl, h, rfl⟩⟩
      simp [h]
  | wrap => exact .inr ⟨_, _, rfl, rfl, .inr ⟨rfl, rfl⟩⟩

/-- A skip adds 2 to PC or changes nothing (10_state.md R20). -/
theorem State.skipIf_eq (s : State) (c : Bool) :
    s.skipIf c = { s with pc := if c then s.pc + 2 else s.pc } := by
  cases c <;> rfl

/-- A raised fault writes MODE alone (60_exceptions.md R113). -/
theorem State.takeFault_eq (s : State) (c : FaultCause) :
    s.takeFault c = { s with mode := .halted c (s.pc - 2) } := rfl

/-- The fetch address, read back from the PC that the increment left: A (10_state.md R20). -/
theorem State.fetchAddr_beginCycle (s : State) : s.beginCycle.fetchAddr = s.pc := by
  simp [State.fetchAddr]

/-- One tick in numbers: down by one, and never below 0 (60_exceptions.md R121). -/
theorem tickByte_toNat (b : Byte) : (tickByte b).toNat = b.toNat - 1 := by
  unfold tickByte
  split
  · next h => simp [h]
  · next h =>
    have : b.toNat ≠ 0 := fun e => h (BitVec.eq_of_toNat_eq (by simpa using e))
    have := b.isLt
    rw [BitVec.toNat_sub]
    simp
    omega

/-- The key a byte names (44_timers_input.md R105): it is the byte's value, or there is none. -/
theorem keyIndex_eq_some {b : Byte} {k : KeyIdx} : keyIndex b = some k ↔ b.toNat = k.val := by
  unfold keyIndex
  split
  · simp [Fin.ext_iff]
  · next h =>
    have := k.isLt
    simp
    omega

theorem keyIndex_eq_none {b : Byte} : keyIndex b = none ↔ 15 < b.toNat := by
  unfold keyIndex
  split
  · simp
    omega
  · simp
    omega

/-- The index advance writes I alone, and only when INDEX_ADVANCE is set (43_index_memory.md R103). -/
theorem State.advanceIndex_eq (s : State) (x : RegIdx) :
    s.advanceIndex x =
      { s with i := if s.params.indexAdvance then s.i + x.setWidth 16 + 1 else s.i } := by
  unfold State.advanceIndex
  split <;> rfl

/-- The register load writes the register file alone (43_index_memory.md R104). -/
theorem State.loadRegs_eq (s : State) (x : RegIdx) :
    s.loadRegs x = { s with v := (s.loadRegs x).v } := by
  have key : ∀ (l : List Nat) (t : State), t = { s with v := t.v } →
      l.foldl (fun t k => t.setV (BitVec.ofNat 4 k) (s.mem.read (s.indexAddr k))) t =
        { s with v := (l.foldl (fun t k => t.setV (BitVec.ofNat 4 k)
          (s.mem.read (s.indexAddr k))) t).v } := by
    intro l
    induction l with
    | nil => exact fun t ht => ht
    | cons k l ih =>
      intro t ht
      refine ih _ ?_
      rw [ht]
      rfl
  exact key _ s rfl

/-- Unless it takes a fault, `orFault` is the state it was given. -/
theorem State.orFault_cases (s : State) (r : Except FaultCause State) :
    (∃ t, r = .ok t ∧ s.orFault r = t) ∨ (∃ c, r = .error c ∧ s.orFault r = s.takeFault c) := by
  cases r with
  | ok t => exact .inl ⟨t, rfl, rfl⟩
  | error c => exact .inr ⟨c, rfl, rfl⟩

end Sys2Proof.Machine
end

