-- ==== Sys2Proof/Laws/PerInstr.lean ====
section
/-! SUPPORT. Statements made once per instruction. Family TableRow: the word the encoder gives an
instruction matches the instruction's own row of spec/opcode_table.json, and the row is in the table. -/

namespace Sys2Proof.Laws.TableRow

/-- The encoded word matches the instruction's row, which the table holds (30_encoding.md R63, R70). -/
def Statement (i : Instr) : Prop :=
  i.row.matchesWord (encode i) = true ∧ i.row ∈ opcodeTable

/-! The mask of each shape, applied to a word of that shape (30_encoding.md R58) -/

theorem mask_address (op : Nibble) (nnn : Addr12) :
    (op ++ nnn : Word) &&& 0xF000 = op ++ 0#12 := by
  have h : (0xF000 : Word) = BitVec.allOnes 4 ++ 0#12 := rfl
  rw [h, BitVec.and_append]
  simp only [BitVec.and_allOnes, BitVec.and_zero]

theorem mask_byte (op x : Nibble) (kk : Byte) :
    (op ++ x ++ kk : Word) &&& 0xF000 = op ++ 0#4 ++ 0#8 := by
  have h : (0xF000 : Word) = BitVec.allOnes 4 ++ 0#4 ++ 0#8 := rfl
  rw [h, BitVec.and_append, BitVec.and_append]
  simp only [BitVec.and_allOnes, BitVec.and_zero]

theorem mask_lowNibble (op x y n : Nibble) :
    (op ++ x ++ y ++ n : Word) &&& 0xF00F = op ++ 0#4 ++ 0#4 ++ n := by
  have h : (0xF00F : Word) = BitVec.allOnes 4 ++ 0#4 ++ 0#4 ++ BitVec.allOnes 4 := rfl
  rw [h, BitVec.and_append, BitVec.and_append, BitVec.and_append]
  simp only [BitVec.and_allOnes, BitVec.and_zero]

theorem mask_nibble (op x y n : Nibble) :
    (op ++ x ++ y ++ n : Word) &&& 0xF000 = op ++ 0#4 ++ 0#4 ++ 0#4 := by
  have h : (0xF000 : Word) = BitVec.allOnes 4 ++ 0#4 ++ 0#4 ++ 0#4 := rfl
  rw [h, BitVec.and_append, BitVec.and_append, BitVec.and_append]
  simp only [BitVec.and_allOnes, BitVec.and_zero]

theorem mask_lowByte (op x : Nibble) (kk : Byte) :
    (op ++ x ++ kk : Word) &&& 0xF0FF = op ++ 0#4 ++ kk := by
  have h : (0xF0FF : Word) = BitVec.allOnes 4 ++ 0#4 ++ BitVec.allOnes 8 := rfl
  rw [h, BitVec.and_append, BitVec.and_append]
  simp only [BitVec.and_allOnes, BitVec.and_zero]

/-! The instructions -/

theorem cls : Statement .cls := ⟨by decide, by decide⟩
theorem ret : Statement .ret := ⟨by decide, by decide⟩
theorem jp (nnn : Addr12) : Statement (.jp nnn) :=
  ⟨by simp only [Instr.row, OpcodeRow.matchesWord, encode, mask_address]; rfl, by simp only [Instr.row]; decide⟩
theorem call (nnn : Addr12) : Statement (.call nnn) :=
  ⟨by simp only [Instr.row, OpcodeRow.matchesWord, encode, mask_address]; rfl, by simp only [Instr.row]; decide⟩
theorem seImm (x : RegIdx) (kk : Byte) : Statement (.seImm x kk) :=
  ⟨by simp only [Instr.row, OpcodeRow.matchesWord, encode, mask_byte]; rfl, by simp only [Instr.row]; decide⟩
theorem sneImm (x : RegIdx) (kk : Byte) : Statement (.sneImm x kk) :=
  ⟨by simp only [Instr.row, OpcodeRow.matchesWord, encode, mask_byte]; rfl, by simp only [Instr.row]; decide⟩
theorem seReg (x y : RegIdx) : Statement (.seReg x y) :=
  ⟨by simp only [Instr.row, OpcodeRow.matchesWord, encode, mask_lowNibble]; rfl, by simp only [Instr.row]; decide⟩
theorem ldImm (x : RegIdx) (kk : Byte) : Statement (.ldImm x kk) :=
  ⟨by simp only [Instr.row, OpcodeRow.matchesWord, encode, mask_byte]; rfl, by simp only [Instr.row]; decide⟩
theorem addImm (x : RegIdx) (kk : Byte) : Statement (.addImm x kk) :=
  ⟨by simp only [Instr.row, OpcodeRow.matchesWord, encode, mask_byte]; rfl, by simp only [Instr.row]; decide⟩
theorem ldReg (x y : RegIdx) : Statement (.ldReg x y) :=
  ⟨by simp only [Instr.row, OpcodeRow.matchesWord, encode, mask_lowNibble]; rfl, by simp only [Instr.row]; decide⟩
theorem or (x y : RegIdx) : Statement (.or x y) :=
  ⟨by simp only [Instr.row, OpcodeRow.matchesWord, encode, mask_lowNibble]; rfl, by simp only [Instr.row]; decide⟩
theorem and (x y : RegIdx) : Statement (.and x y) :=
  ⟨by simp only [Instr.row, OpcodeRow.matchesWord, encode, mask_lowNibble]; rfl, by simp only [Instr.row]; decide⟩
theorem xor (x y : RegIdx) : Statement (.xor x y) :=
  ⟨by simp only [Instr.row, OpcodeRow.matchesWord, encode, mask_lowNibble]; rfl, by simp only [Instr.row]; decide⟩
theorem addReg (x y : RegIdx) : Statement (.addReg x y) :=
  ⟨by simp only [Instr.row, OpcodeRow.matchesWord, encode, mask_lowNibble]; rfl, by simp only [Instr.row]; decide⟩
theorem sub (x y : RegIdx) : Statement (.sub x y) :=
  ⟨by simp only [Instr.row, OpcodeRow.matchesWord, encode, mask_lowNibble]; rfl, by simp only [Instr.row]; decide⟩
theorem shr (x y : RegIdx) : Statement (.shr x y) :=
  ⟨by simp only [Instr.row, OpcodeRow.matchesWord, encode, mask_lowNibble]; rfl, by simp only [Instr.row]; decide⟩
theorem subn (x y : RegIdx) : Statement (.subn x y) :=
  ⟨by simp only [Instr.row, OpcodeRow.matchesWord, encode, mask_lowNibble]; rfl, by simp only [Instr.row]; decide⟩
theorem shl (x y : RegIdx) : Statement (.shl x y) :=
  ⟨by simp only [Instr.row, OpcodeRow.matchesWord, encode, mask_lowNibble]; rfl, by simp only [Instr.row]; decide⟩
theorem sneReg (x y : RegIdx) : Statement (.sneReg x y) :=
  ⟨by simp only [Instr.row, OpcodeRow.matchesWord, encode, mask_lowNibble]; rfl, by simp only [Instr.row]; decide⟩
theorem ldI (nnn : Addr12) : Statement (.ldI nnn) :=
  ⟨by simp only [Instr.row, OpcodeRow.matchesWord, encode, mask_address]; rfl, by simp only [Instr.row]; decide⟩
theorem jpV0 (nnn : Addr12) : Statement (.jpV0 nnn) :=
  ⟨by simp only [Instr.row, OpcodeRow.matchesWord, encode, mask_address]; rfl, by simp only [Instr.row]; decide⟩
theorem rnd (x : RegIdx) (kk : Byte) : Statement (.rnd x kk) :=
  ⟨by simp only [Instr.row, OpcodeRow.matchesWord, encode, mask_byte]; rfl, by simp only [Instr.row]; decide⟩
theorem drw (x y : RegIdx) (n : Nibble) : Statement (.drw x y n) :=
  ⟨by simp only [Instr.row, OpcodeRow.matchesWord, encode, mask_nibble]; rfl, by simp only [Instr.row]; decide⟩
theorem skp (x : RegIdx) : Statement (.skp x) :=
  ⟨by simp only [Instr.row, OpcodeRow.matchesWord, encode, mask_lowByte]; rfl, by simp only [Instr.row]; decide⟩
theorem sknp (x : RegIdx) : Statement (.sknp x) :=
  ⟨by simp only [Instr.row, OpcodeRow.matchesWord, encode, mask_lowByte]; rfl, by simp only [Instr.row]; decide⟩
theorem ldVxDt (x : RegIdx) : Statement (.ldVxDt x) :=
  ⟨by simp only [Instr.row, OpcodeRow.matchesWord, encode, mask_lowByte]; rfl, by simp only [Instr.row]; decide⟩
theorem ldVxK (x : RegIdx) : Statement (.ldVxK x) :=
  ⟨by simp only [Instr.row, OpcodeRow.matchesWord, encode, mask_lowByte]; rfl, by simp only [Instr.row]; decide⟩
theorem ldDtVx (x : RegIdx) : Statement (.ldDtVx x) :=
  ⟨by simp only [Instr.row, OpcodeRow.matchesWord, encode, mask_lowByte]; rfl, by simp only [Instr.row]; decide⟩
theorem ldStVx (x : RegIdx) : Statement (.ldStVx x) :=
  ⟨by simp only [Instr.row, OpcodeRow.matchesWord, encode, mask_lowByte]; rfl, by simp only [Instr.row]; decide⟩
theorem addI (x : RegIdx) : Statement (.addI x) :=
  ⟨by simp only [Instr.row, OpcodeRow.matchesWord, encode, mask_lowByte]; rfl, by simp only [Instr.row]; decide⟩
theorem ldF (x : RegIdx) : Statement (.ldF x) :=
  ⟨by simp only [Instr.row, OpcodeRow.matchesWord, encode, mask_lowByte]; rfl, by simp only [Instr.row]; decide⟩
theorem ldB (x : RegIdx) : Statement (.ldB x) :=
  ⟨by simp only [Instr.row, OpcodeRow.matchesWord, encode, mask_lowByte]; rfl, by simp only [Instr.row]; decide⟩
theorem ldMemVx (x : RegIdx) : Statement (.ldMemVx x) :=
  ⟨by simp only [Instr.row, OpcodeRow.matchesWord, encode, mask_lowByte]; rfl, by simp only [Instr.row]; decide⟩
theorem ldVxMem (x : RegIdx) : Statement (.ldVxMem x) :=
  ⟨by simp only [Instr.row, OpcodeRow.matchesWord, encode, mask_lowByte]; rfl, by simp only [Instr.row]; decide⟩

end Sys2Proof.Laws.TableRow
end

