-- ==== Sys2Proof/Laws/Step.lean ====
section
/-! SUPPORT. Inversion lemmas: all that `step` and the end of a cycle can do (30_encoding.md R62). -/

namespace Sys2Proof.Machine

/-- The end of a cycle: a report without a tick, nothing, or a tick. -/
theorem endCycle_cases (i : Instr) (s t : State) :
    (∃ c a, t.mode = .halted c a ∧ endCycle i s t = t.report (.fatal c) a s.fetch) ∨
    (t.mode = .running ∧ isWaitKey i = true ∧ s.latch = none ∧ s.params.tickDuringWait = false ∧
      endCycle i s t = t) ∨
    (t.mode = .running ∧
      ¬(isWaitKey i = true ∧ s.latch = none ∧ s.params.tickDuringWait = false) ∧
      endCycle i s t = t.tick) := by
  unfold endCycle
  cases hm : t.mode with
  | halted c a => exact .inl ⟨c, a, rfl, rfl⟩
  | running =>
    by_cases h : (isWaitKey i && s.latch.isNone && !s.params.tickDuringWait) = true
    · have h' := h
      simp only [Bool.and_eq_true, Option.isNone_iff_eq_none, Bool.not_eq_true'] at h'
      exact .inr (.inl ⟨rfl, h'.1.1, h'.1.2, h'.2, if_pos h⟩)
    · refine .inr (.inr ⟨rfl, ?_, if_neg h⟩)
      rintro ⟨h1, h2, h3⟩
      exact h (by simp [h1, h2, h3])

/-- A step that answers a next state ran an unrecognized word or one instruction, in the Running mode. -/
theorem step_cases {s t : State} (h : step s = .next t) :
    s.mode = .running ∧
    ((∃ w, decode s.fetch = .error w ∧ t = s.unrecognizedCycle) ∨
     ∃ i u, decode s.fetch = .ok i ∧ exec i s.beginCycle = .next u ∧ t = endCycle i s u) := by
  unfold step at h
  cases hm : s.mode with
  | halted c a => simp [hm] at h
  | running =>
    refine ⟨rfl, ?_⟩
    simp only [hm] at h
    cases hd : decode s.fetch with
    | error w =>
      simp only [hd, Host.Outcome.next.injEq] at h
      exact .inl ⟨w, rfl, h.symm⟩
    | ok i =>
      simp only [hd] at h
      cases he : exec i s.beginCycle with
      | next u =>
        simp only [he, finishCycle, Host.Outcome.next.injEq] at h
        exact .inr ⟨i, u, rfl, he, h.symm⟩
      | fault f => simp [he, finishCycle] at h
      | refused r => simp [he, finishCycle] at h

end Sys2Proof.Machine
end

