-- ==== Sys2Proof/Tests/Slice0.lean ====
section
/-! SUPPORT. The model's own tests. The expected values come from spec/95_test_vectors.md (the id of a
vector stands in a test's comment), from the examples in the rules, and from the encoding tables; none is
the model's own answer. After them, a witness for every statement of Obligations.lean that has hypotheses
or a case of its own at a boundary. -/

namespace Sys2Proof.Tests

open Sys2Proof.Machine

/-- The state with the instruction word at PC: the vectors' "word at A". -/
def start (w : Nat) (s : State) : State := s.withFetchWord 16 w

/-- One cycle answers a next state and it passes the check. -/
def after (s : State) (check : State → Bool) : Bool :=
  match step s with
  | .next t => check t
  | .fault _ => false
  | .refused _ => false

/-- The execute phase alone answers a next state and it passes the check. -/
def afterExec (i : Instr) (s : State) (check : State → Bool) : Bool :=
  match exec i s with
  | .next t => check t
  | .fault _ => false
  | .refused _ => false

/-- The pixels that are on, by px and then py. -/
def lit (t : State) : List (Nat × Nat) :=
  (List.range 64).flatMap fun px =>
    (List.range 32).filterMap fun py => if t.pixel (wrapX px) (wrapY py) then some (px, py) else none

/-- A pixel turned on. -/
def on (px : Fin 64) (py : Fin 32) (s : State) : State := { s with disp := Display.toggle s.disp px py }

/-- The parameters of the Wrap mode. -/
def wrapParams : Params := { defaultParams with stackMode := .wrap }

/-- The glyph "0" drawn at the origin (vector DRW-1). -/
def glyphZero : List (Nat × Nat) :=
  [(0, 0), (0, 1), (0, 2), (0, 3), (0, 4), (1, 0), (1, 4)]
  ++ [(2, 0), (2, 4), (3, 0), (3, 1), (3, 2), (3, 3), (3, 4)]

/-! Well-formedness. `Instr.WellFormed` refuses nothing: every value of every field is in range and none
is reserved (10_state.md R16, 30_encoding.md R59, R70). The set-up and the image are checked. -/

theorem test_wellFormed_setup_refuses_rate_zero :
    Setup.WellFormed { defaultSetup with rate := 0 } = false ∧ Setup.WellFormed defaultSetup = true := by
  decide

/-- L1-11: 3584 bytes load, 3585 do not. -/
theorem test_imageFits_boundary :
    imageFits (List.replicate 3584 0) = true ∧ imageFits (List.replicate 3585 0) = false := by
  constructor <;> (unfold imageFits; rw [List.length_replicate]; decide)

theorem test_wellFormed_instr_accepts_extremes :
    (Instr.drw 0xF 0xF 0xF).WellFormed = true ∧ (Instr.drw 0 0 0).WellFormed = true := by decide

/-! Decoding: one word of every row, written out from its pattern in 30_encoding.md R63 to R68. -/

theorem test_decode_display : decode 0x00E0 = .ok .cls ∧ decode 0xD12F = .ok (.drw 0x1 0x2 0xF) := by decide
theorem test_decode_return_and_jumps : decode 0x00EE = .ok .ret ∧ decode 0x1ABC = .ok (.jp 0xABC) ∧
    decode 0x2345 = .ok (.call 0x345) ∧ decode 0xB67F = .ok (.jpV0 0x67F) := by decide
theorem test_decode_skips : decode 0x31C4 = .ok (.seImm 0x1 0xC4) ∧ decode 0x4E07 = .ok (.sneImm 0xE 0x07) ∧
    decode 0x57B0 = .ok (.seReg 0x7 0xB) ∧ decode 0x9AB0 = .ok (.sneReg 0xA 0xB) := by decide
theorem test_decode_immediates : decode 0x6A42 = .ok (.ldImm 0xA 0x42) ∧
    decode 0x7220 = .ok (.addImm 0x2 0x20) ∧ decode 0xC30F = .ok (.rnd 0x3 0x0F) := by decide
theorem test_decode_logic : decode 0x8120 = .ok (.ldReg 0x1 0x2) ∧ decode 0x8341 = .ok (.or 0x3 0x4) ∧
    decode 0x8562 = .ok (.and 0x5 0x6) ∧ decode 0x8783 = .ok (.xor 0x7 0x8) := by decide
theorem test_decode_arithmetic : decode 0x89A4 = .ok (.addReg 0x9 0xA) ∧
    decode 0x8BC5 = .ok (.sub 0xB 0xC) ∧ decode 0x8DE7 = .ok (.subn 0xD 0xE) := by decide
theorem test_decode_shifts : decode 0x8CD6 = .ok (.shr 0xC 0xD) ∧ decode 0x8FAE = .ok (.shl 0xF 0xA) := by
  decide
theorem test_decode_index : decode 0xA2F0 = .ok (.ldI 0x2F0) ∧ decode 0xF21E = .ok (.addI 0x2) ∧
    decode 0xFA29 = .ok (.ldF 0xA) := by decide
theorem test_decode_transfers : decode 0xF433 = .ok (.ldB 0x4) ∧ decode 0xF255 = .ok (.ldMemVx 0x2) ∧
    decode 0xF165 = .ok (.ldVxMem 0x1) := by decide
theorem test_decode_keys : decode 0xE49E = .ok (.skp 0x4) ∧ decode 0xE4A1 = .ok (.sknp 0x4) ∧
    decode 0xF50A = .ok (.ldVxK 0x5) := by decide
theorem test_decode_timers : decode 0xF307 = .ok (.ldVxDt 0x3) ∧ decode 0xF115 = .ok (.ldDtVx 0x1) ∧
    decode 0xF818 = .ok (.ldStVx 0x8) := by decide

/-- R64 to R69, UNR-1 to UNR-7: words of no row are rejected by name. -/
theorem test_decode_unrecognized :
    decode 0x0000 = .error (.unrecognizedInstruction 0x0000) ∧
    decode 0x0123 = .error (.unrecognizedInstruction 0x0123) ∧
    decode 0x00E1 = .error (.unrecognizedInstruction 0x00E1) ∧
    decode 0x5121 = .error (.unrecognizedInstruction 0x5121) ∧
    decode 0x9121 = .error (.unrecognizedInstruction 0x9121) ∧
    decode 0x8008 = .error (.unrecognizedInstruction 0x8008) ∧
    decode 0x800F = .error (.unrecognizedInstruction 0x800F) ∧
    decode 0xE000 = .error (.unrecognizedInstruction 0xE000) ∧
    decode 0xF000 = .error (.unrecognizedInstruction 0xF000) ∧
    decode 0xFFFF = .error (.unrecognizedInstruction 0xFFFF) := by decide

/-- The encoder gives the words of the rules' examples. -/
theorem test_encode : encode (.drw 0x0 0x1 0x5) = 0xD015 ∧ encode (.shl 0x5 0x0) = 0x850E ∧
    encode (.jpV0 0xFF0) = 0xBFF0 ∧ encode (.ldVxMem 0xF) = 0xFF65 ∧ encode .ret = 0x00EE := by decide

theorem test_decodeTableWord : decodeTableWord 16 0x8014 = some (.addReg 0x0 0x1) ∧
    decodeTableWord 16 0x5121 = none := by decide

/-! Display -/

/-- DRW-1. -/
theorem test_drw_glyph : after (start 0xD015 State.reset)
    (fun t => lit t == glyphZero && t.getV vf == 0 && t.pc == 0x202 && t.i == 0) = true := by decide
/-- DRW-5, in a state with a pixel of the wrapped part already on (C2: so VF = 1). -/
theorem test_drw_wraps : after (start 0xD012 (on 1 31
      { (((State.reset.setV 0 0x3E).setV 1 0x1F).memWrite 0x50 [0xF0, 0x80]) with i := 0x50 }))
    (fun t => lit t == [(0, 31), (62, 0), (62, 31), (63, 31)] && t.getV vf == 1) = true := by decide
/-- CLS-1. -/
theorem test_cls : after (start 0x00E0 ((on 0 0 (on 63 31 State.reset)).setV vf 1))
    (fun t => lit t == [] && t.getV vf == 1 && t.pc == 0x202) = true := by decide

/-! Control flow -/

/-- RET-1. -/
theorem test_ret : after (start 0x00EE { (State.reset.setStack 0 0x302) with sp := 1, pc := 0x400 })
    (fun t => t.sp == 0 && t.pc == 0x302 && t.mode == .running) = true := by decide
/-- RET-2. -/
theorem test_ret_underflow : after (start 0x00EE { State.reset with pc := 0x400 })
    (fun t => t.sp == 0 && t.pc == 0x402 && t.mode == .halted .stackUnderflow 0x400 &&
      diagnostics t == [(2, 0x400, 0x00EE)]) = true := by decide
/-- JP-1 and JP-2. -/
theorem test_jp : after (start 0x1234 State.reset) (fun t => t.pc == 0x234) = true ∧
    after (start 0x1FFF { State.reset with pc := 0xFFF }) (fun t => t.pc == 0xFFF) = true := by decide
/-- CALL-2 and CALL-4. -/
theorem test_call : after (start 0x2300 { State.reset with sp := 15 })
      (fun t => t.sp == 16 && t.getStack 15 == 0x202 && t.pc == 0x300 && t.mode == .running) = true ∧
    after (start 0x2300 { State.reset with sp := 15, params := wrapParams })
      (fun t => t.sp == 0 && t.getStack 15 == 0x202 && t.pc == 0x300) = true := by decide
/-- CALL-3. -/
theorem test_call_overflow : after (start 0x2300 { State.reset with sp := 16 })
    (fun t => t.sp == 16 && t.pc == 0x202 && t.mode == .halted .stackOverflow 0x200 &&
      diagnostics t == [(1, 0x200, 0x2300)] && t.stack == State.reset.stack) = true := by decide
/-- SE-1, SE-2 and SE-3. -/
theorem test_seImm : after (start 0x3312 (State.reset.setV 3 0x12)) (fun t => t.pc == 0x204) = true ∧
    after (start 0x3312 (State.reset.setV 3 0x13)) (fun t => t.pc == 0x202) = true ∧
    after (start 0x3000 { State.reset with pc := 0xFFFE }) (fun t => t.pc == 0x0002) = true := by decide
/-- SNE-1 and SNE-2. -/
theorem test_sneImm : after (start 0x4312 (State.reset.setV 3 0x12)) (fun t => t.pc == 0x202) = true ∧
    after (start 0x4313 (State.reset.setV 3 0x12)) (fun t => t.pc == 0x204) = true := by decide
/-- SEV-1, SEV-2 and SEV-3. -/
theorem test_seReg :
    after (start 0x5120 ((State.reset.setV 1 7).setV 2 7)) (fun t => t.pc == 0x204) = true ∧
    after (start 0x5120 ((State.reset.setV 1 7).setV 2 8)) (fun t => t.pc == 0x202) = true ∧
    after (start 0x5110 (State.reset.setV 1 9)) (fun t => t.pc == 0x204) = true := by decide
/-- SNEV-1 and SNEV-2. -/
theorem test_sneReg :
    after (start 0x9120 ((State.reset.setV 1 7).setV 2 8)) (fun t => t.pc == 0x204) = true ∧
    after (start 0x9110 (State.reset.setV 1 7)) (fun t => t.pc == 0x202) = true := by decide
/-- JPV0-1, JPV0-2 and JPV0-3. -/
theorem test_jpV0 : after (start 0xB300 (State.reset.setV 0 4)) (fun t => t.pc == 0x304) = true ∧
    after (start 0xBFF0 ((State.reset.setV 0 0x20).setV 1 0x99)) (fun t => t.pc == 0x1010) = true ∧
    after (start 0xBFFF (State.reset.setV 0 0xFF)) (fun t => t.pc == 0x10FE) = true := by decide

/-! Loads, arithmetic and logic -/

/-- LD-1 and LD-2. -/
theorem test_ldImm : after (start 0x6A42 State.reset) (fun t => t.getV 0xA == 0x42 && t.pc == 0x202) = true ∧
    after (start 0x6F00 (State.reset.setV vf 1)) (fun t => t.getV vf == 0) = true := by decide
/-- ADDI-1 and ADDI-2. -/
theorem test_addImm :
    after (start 0x7220 (State.reset.setV 2 0xF0)) (fun t => t.getV 2 == 0x10 && t.getV vf == 0) = true ∧
    after (start 0x7201 ((State.reset.setV 2 0xFF).setV vf 1))
      (fun t => t.getV 2 == 0 && t.getV vf == 1) = true := by decide
/-- MOV-1. -/
theorem test_ldReg : after (start 0x8010 (State.reset.setV 1 0x33))
    (fun t => t.getV 0 == 0x33 && t.getV 1 == 0x33) = true := by decide
/-- OR-1. -/
theorem test_or : after (start 0x8011 (((State.reset.setV 0 0x0F).setV 1 0xF0).setV vf 1))
    (fun t => t.getV 0 == 0xFF && t.getV vf == 1) = true := by decide
/-- AND-1. -/
theorem test_and : after (start 0x8012 (((State.reset.setV 0 0x3C).setV 1 0x0F).setV vf 1))
    (fun t => t.getV 0 == 0x0C && t.getV vf == 1) = true := by decide
/-- XOR-1 and XOR-2. -/
theorem test_xor :
    after (start 0x8013 ((State.reset.setV 0 0x3C).setV 1 0x0F)) (fun t => t.getV 0 == 0x33) = true ∧
    after (start 0x8443 (State.reset.setV 4 0x5A)) (fun t => t.getV 4 == 0) = true := by decide
/-- ADD-1, ADD-2 and ADD-3. -/
theorem test_addReg :
    after (start 0x8014 ((State.reset.setV 0 0xC8).setV 1 0x64))
      (fun t => t.getV 0 == 0x2C && t.getV vf == 1) = true ∧
    after (start 0x8014 (((State.reset.setV 0 0x80).setV 1 0x7F).setV vf 1))
      (fun t => t.getV 0 == 0xFF && t.getV vf == 0) = true ∧
    after (start 0x8014 ((State.reset.setV 0 0xFF).setV 1 1))
      (fun t => t.getV 0 == 0 && t.getV vf == 1) = true := by decide
/-- ADD-4 and ADD-5. -/
theorem test_addReg_vf :
    after (start 0x8F14 ((State.reset.setV vf 0xFF).setV 1 2)) (fun t => t.getV vf == 1) = true ∧
    after (start 0x80F4 ((State.reset.setV 0 0x10).setV vf 0xF0))
      (fun t => t.getV 0 == 0 && t.getV vf == 1) = true := by decide
/-- SUB-1, SUB-2 and SUB-3. -/
theorem test_sub :
    after (start 0x8015 ((State.reset.setV 0 0x0A).setV 1 3))
      (fun t => t.getV 0 == 7 && t.getV vf == 1) = true ∧
    after (start 0x8015 ((State.reset.setV 0 3).setV 1 0x0A))
      (fun t => t.getV 0 == 0xF9 && t.getV vf == 0) = true ∧
    after (start 0x8015 (((State.reset.setV 0 5).setV 1 5).setV vf 1))
      (fun t => t.getV 0 == 0 && t.getV vf == 0) = true := by decide
/-- SUB-4. -/
theorem test_sub_vf : after (start 0x8F25 ((State.reset.setV vf 9).setV 2 3))
    (fun t => t.getV vf == 1) = true := by decide
/-- SHR-1 and SHR-2. -/
theorem test_shr :
    after (start 0x8566 ((State.reset.setV 5 5).setV 6 0xFF))
      (fun t => t.getV 5 == 2 && t.getV 6 == 0xFF && t.getV vf == 1) = true ∧
    after (start 0x8506 (State.reset.setV 5 0x80))
      (fun t => t.getV 5 == 0x40 && t.getV vf == 0) = true := by decide
/-- SHR-3. -/
theorem test_shr_vf : after (start 0x8F06 (State.reset.setV vf 3)) (fun t => t.getV vf == 1) = true := by decide
/-- SUBN-1, SUBN-2 and SUBN-3. -/
theorem test_subn :
    after (start 0x8017 ((State.reset.setV 0 3).setV 1 0x0A))
      (fun t => t.getV 0 == 7 && t.getV vf == 1) = true ∧
    after (start 0x8017 ((State.reset.setV 0 0x0A).setV 1 3))
      (fun t => t.getV 0 == 0xF9 && t.getV vf == 0) = true ∧
    after (start 0x8017 (((State.reset.setV 0 7).setV 1 7).setV vf 1))
      (fun t => t.getV 0 == 0 && t.getV vf == 0) = true := by decide
/-- SHL-1 and SHL-2. -/
theorem test_shl :
    after (start 0x850E (State.reset.setV 5 0x81)) (fun t => t.getV 5 == 2 && t.getV vf == 1) = true ∧
    after (start 0x850E (State.reset.setV 5 0x40)) (fun t => t.getV 5 == 0x80 && t.getV vf == 0) = true := by
  decide
/-- RND-1: the drawn byte, whatever it is, masked with 0x0F; 0xB7 gives 0x07. -/
theorem test_rnd : (∃ t, step (start 0xC30F State.reset) = .next t ∧
      t.getV 3 = Config.randomByte 0 &&& 0x0F ∧ t.draws = 1) ∧ (0xB7 : Byte) &&& 0x0F = 0x07 :=
  ⟨⟨_, rfl, rfl, rfl⟩, rfl⟩
/-- RND-2: with kk = 0 the result is 0 and the byte is drawn still. -/
theorem test_rnd_zero_mask : ∃ t, step (start 0xC300 (State.reset.setV 3 0x55)) = .next t ∧
    t.getV 3 = 0 ∧ t.draws = 1 :=
  ⟨_, rfl, BitVec.and_zero, rfl⟩

/-! The index register and memory transfers -/

/-- LDI-1. -/
theorem test_ldI : after (start 0xA2F0 { State.reset with i := 0xF123 }) (fun t => t.i == 0x2F0) = true := by
  decide
/-- ADDI16-1, ADDI16-2 and ADDI16-3. -/
theorem test_addI :
    after (start 0xF21E { (State.reset.setV 2 0x10).setV vf 1 with i := 0x300 })
      (fun t => t.i == 0x310 && t.getV vf == 0) = true ∧
    after (start 0xF21E { (State.reset.setV 2 1).setV vf 1 with i := 0xFFF })
      (fun t => t.i == 0x1000 && t.getV vf == 0) = true ∧
    after (start 0xF21E { State.reset.setV 2 1 with i := 0xFFFF })
      (fun t => t.i == 0 && t.getV vf == 1) = true := by decide
/-- ADDI16-4. -/
theorem test_addI_vf : after (start 0xFF1E { State.reset.setV vf 5 with i := 0x100 })
    (fun t => t.i == 0x105 && t.getV vf == 0) = true := by decide
/-- FONT-1 and FONT-2. -/
theorem test_ldF : after (start 0xFA29 (State.reset.setV 0xA 0x0A)) (fun t => t.i == 0x32) = true ∧
    after (start 0xF129 (State.reset.setV 1 0xFF)) (fun t => t.i == 0x4FB) = true := by decide
/-- BCD-1. -/
theorem test_ldB : after (start 0xF433 { State.reset.setV 4 0xEA with i := 0x300 })
    (fun t => t.mem.read 0x300 == 2 && t.mem.read 0x301 == 3 && t.mem.read 0x302 == 4 && t.i == 0x300)
      = true := by decide
/-- BCD-3. -/
theorem test_ldB_wraps : after (start 0xF433 { State.reset.setV 4 0xFF with i := 0xFFE })
    (fun t => t.mem.read 0xFFE == 2 && t.mem.read 0xFFF == 5 && t.mem.read 0 == 5 && t.i == 0xFFE) = true := by
  decide
/-- STR-1 and STR-2. -/
theorem test_ldMemVx :
    after (start 0xF255 { ((State.reset.setV 0 1).setV 1 2).setV 2 3 with i := 0x300 })
      (fun t => t.mem.read 0x300 == 1 && t.mem.read 0x301 == 2 && t.mem.read 0x302 == 3 &&
        t.mem.read 0x303 == 0 && t.i == 0x300) = true ∧
    after (start 0xF255 { ((State.reset.setV 0 1).setV 1 2).setV 2 3 with
        i := 0x300, params := { defaultParams with indexAdvance := true } })
      (fun t => t.mem.read 0x302 == 3 && t.i == 0x303) = true := by decide
/-- STR-3. -/
theorem test_ldMemVx_wraps : after (start 0xF155 { State.reset.setV 0 0xAA with i := 0xFFF })
    (fun t => t.mem.read 0xFFF == 0xAA && t.mem.read 0 == 0) = true := by decide
/-- LDM-1. -/
theorem test_ldVxMem : after (start 0xF265 { State.reset.memWrite 0x300 [1, 2, 3, 4] with i := 0x300 })
    (fun t => t.getV 0 == 1 && t.getV 1 == 2 && t.getV 2 == 3 && t.getV 3 == 0 && t.i == 0x300) = true := by
  decide
/-- LDM-2 and LDM-3. -/
theorem test_ldVxMem_edges :
    after (start 0xFF65 { State.reset.memWrite 0x30F [0x77] with
        i := 0x300, params := { defaultParams with indexAdvance := true } })
      (fun t => t.getV vf == 0x77 && t.i == 0x310) = true ∧
    after (start 0xF065 { State.reset.memWrite 0xFFF [0x5A] with i := 0xFFFF })
      (fun t => t.getV 0 == 0x5A && t.i == 0xFFFF) = true := by decide

/-! Keys and timers -/

/-- SKP-1 and SKP-2. -/
theorem test_skp :
    after (start 0xE49E (setKeyState 0xA true (State.reset.setV 4 0x0A))) (fun t => t.pc == 0x204) = true ∧
    after (start 0xE49E (State.reset.setV 4 0x0A)) (fun t => t.pc == 0x202) = true := by decide
/-- SKP-3. -/
theorem test_skp_range : after (start 0xE49E (State.reset.setV 4 0x10))
    (fun t => t.pc == 0x202 && t.mode == .halted .keyIndexRange 0x200 &&
      diagnostics t == [(3, 0x200, 0xE49E)]) = true := by decide
/-- SKNP-1 and SKNP-2. -/
theorem test_sknp :
    after (start 0xE4A1 (State.reset.setV 4 0x0A)) (fun t => t.pc == 0x204) = true ∧
    after (start 0xE4A1 { setKeyState 0xA true (State.reset.setV 4 0x0A) with latch := some 3 })
      (fun t => t.pc == 0x202 && t.latch == some 3) = true := by decide
/-- LDDT-1 and LDDT-2. -/
theorem test_ldVxDt :
    after (start 0xF307 { State.reset with dt := 5 }) (fun t => t.getV 3 == 5 && t.dt == 4) = true ∧
    after (start 0xF307 State.reset) (fun t => t.getV 3 == 0 && t.dt == 0) = true := by decide
/-- WAIT-1 and WAIT-2. -/
theorem test_ldVxK_waits :
    after (start 0xF50A { State.reset with dt := 3 })
      (fun t => t.pc == 0x200 && t.dt == 2 && t.getV 5 == 0) = true ∧
    after (start 0xF50A { State.reset with
        dt := 3, params := { defaultParams with tickDuringWait := false } })
      (fun t => t.pc == 0x200 && t.dt == 3) = true := by decide
/-- WAIT-3 and WAIT-4. -/
theorem test_ldVxK_takes :
    after (start 0xF50A { State.reset with latch := some 7, dt := 3 })
      (fun t => t.pc == 0x202 && t.getV 5 == 7 && t.latch == none && t.dt == 2) = true ∧
    after (start 0xFF0A { State.reset with latch := some 0xC })
      (fun t => t.getV vf == 0x0C && t.latch == none) = true := by decide
/-- SETDT-1 and SETDT-2. -/
theorem test_ldDtVx :
    after (start 0xF115 (State.reset.setV 1 6)) (fun t => t.dt == 5) = true ∧
    after (start 0xF115 { State.reset with dt := 9 }) (fun t => t.dt == 0) = true := by decide
/-- SETST-1 and SETST-2. -/
theorem test_ldStVx :
    after (start 0xF118 (State.reset.setV 1 3)) (fun t => t.st == 2 && soundActive t) = true ∧
    after (start 0xF118 (State.reset.setV 1 1)) (fun t => t.st == 0 && !soundActive t) = true := by decide

/-! Cycles, reset and the host -/

/-- UNR-1 and UNR-2. -/
theorem test_unrecognized :
    after (start 0x0000 { State.reset with dt := 2 })
      (fun t => t.pc == 0x202 && t.dt == 1 && t.mode == .running &&
        diagnostics t == [(0, 0x200, 0x0000)]) = true ∧
    after (start 0x5121 ((State.reset.setV 1 1).setV 2 1))
      (fun t => t.pc == 0x202 && diagnostics t == [(0, 0x200, 0x5121)]) = true := by decide
/-- TICK-1. -/
theorem test_tick : after (start 0x6000 { State.reset with dt := 1, st := 255 })
    (fun t => t.dt == 0 && t.st == 254) = true := by decide
/-- FETCH-1. -/
theorem test_fetch_wraps :
    after { State.reset with pc := 0x1FFF, mem := (Memory.write (Memory.write [] 0xFFF 0x1F) 0 0x34) }
      (fun t => t.pc == 0xF34) = true := by decide
/-- L1-10: reset and the two-byte image 12 00, then one cycle. -/
theorem test_boot_parks : (match boot defaultSetup (some [0x12, 0x00]) with
    | .error _ => false
    | .ok s => s.pc == 0x200 && s.mem.read 0x200 == 0x12 && s.mem.read 0x201 == 0 &&
        after s (fun t => t.pc == 0x200)) = true := by decide
/-- 20_memory.md R46: glyph A stands at 0x032, glyph F ends at 0x04F. -/
theorem test_reset_font : State.reset.mem.read 0x32 = 0xF0 ∧ State.reset.mem.read 0x33 = 0x90 ∧
    State.reset.mem.read 0x4F = 0x80 ∧ State.reset.mem.read 0x50 = 0 := by decide
/-- 10_state.md R33: an edge sets the latch; a repeated press and a release leave it. -/
theorem test_setKeyState : (setKeyState 7 true State.reset).latch = some 7 ∧
    (setKeyState 7 true { setKeyState 7 true State.reset with latch := none }).latch = none ∧
    (setKeyState 7 false (setKeyState 7 true State.reset)).latch = some 7 ∧
    (setKeyState 7 false (setKeyState 7 true State.reset)).getKey 7 = false := by decide
/-- 60_exceptions.md R112, R115: the load errors and their codes. -/
theorem test_load_errors : LoadError.code .unreadable = 17 ∧
    (match boot defaultSetup none with | .error e => e.code == 17 | .ok _ => false) = true := by decide
/-- 44_timers_input.md R108, the example: a wait, a key press, the key taken. -/
theorem test_runMoves_wait : (match runMoves [.cycle, .key 7 true, .cycle] (start 0xF50A State.reset) with
    | .next t => t.getV 5 == 7 && t.latch == none && t.pc == 0x202
    | .fault _ => false
    | .refused _ => false) = true := by decide

/-! Witnesses. Each names the statement of Obligations.lean whose hypotheses its states and operands meet,
all together; a statement with several cases has one for each, at a boundary where there is one. -/

/-- DecodeOfEncodeIsIdentity, EncodeOfDecodeIsIdentity, EachWordMatchesAtMostOneRow. -/
theorem test_witness_encoding : (Instr.drw 0xF 0x0 0xF).WellFormed = true ∧
    decode 0xFF65 = .ok (.ldVxMem 0xF) ∧ decode 0x00EF = .error (.unrecognizedInstruction 0x00EF) ∧
    OpcodeRow.matchesWord ⟨0xF065, 0xF0FF⟩ 0xFF65 = true ∧ ⟨0xF065, 0xF0FF⟩ ∈ opcodeTable := by decide

/-- SharedNibblesDecodeByTheirSecondKey: beside each recognized key stands one that is not. -/
theorem test_witness_shared_nibbles : decode 0x00E0 = .ok .cls ∧
    decode 0x00ED = .error (.unrecognizedInstruction 0x00ED) ∧ decode 0xEF9E = .ok (.skp 0xF) ∧
    decode 0xEF9F = .error (.unrecognizedInstruction 0xEF9F) ∧ decode 0xFF65 = .ok (.ldVxMem 0xF) ∧
    decode 0xFF66 = .error (.unrecognizedInstruction 0xFF66) ∧ decode 0x5FF0 = .ok (.seReg 0xF 0xF) ∧
    decode 0x9FFF = .error (.unrecognizedInstruction 0x9FFF) := by decide

/-- A state whose PC addresses `7220`. -/
def atAddImm : State := start 0x7220 State.reset
/-- A state whose PC addresses a SKP with V4 = 16. -/
def atSkpOutOfRange : State := start 0xE49E (State.reset.setV 4 0x10)
/-- A state that waits for a key without ticking. -/
def atSilentWait : State :=
  start 0xF50A { State.reset with dt := 3, params := { defaultParams with tickDuringWait := false } }

/-- StepRunsTheDecodedInstruction: a cycle that ticks. -/
theorem test_witness_step_ticks : ∃ t, atAddImm.mode = .running ∧
    decodeBytes (atAddImm.mem.read atAddImm.pc.toNat) (atAddImm.mem.read (atAddImm.pc.toNat + 1))
      = .ok (.addImm 2 0x20) ∧ (Instr.addImm 2 0x20).WellFormed = true ∧
    exec (.addImm 2 0x20) { atAddImm with pc := atAddImm.pc + 2 } = .next t ∧ t.mode = .running :=
  ⟨_, rfl, by decide, rfl, rfl, rfl⟩
/-- StepRunsTheDecodedInstruction: a cycle that faults. -/
theorem test_witness_step_faults : ∃ t, atSkpOutOfRange.mode = .running ∧
    decodeBytes (atSkpOutOfRange.mem.read atSkpOutOfRange.pc.toNat)
      (atSkpOutOfRange.mem.read (atSkpOutOfRange.pc.toNat + 1)) = .ok (.skp 4) ∧
    (Instr.skp 4).WellFormed = true ∧
    exec (.skp 4) { atSkpOutOfRange with pc := atSkpOutOfRange.pc + 2 } = .next t ∧
    t.mode = .halted .keyIndexRange 0x200 :=
  ⟨_, rfl, by decide, rfl, rfl, by decide⟩
/-- StepRunsTheDecodedInstruction: a wait cycle that does not tick. -/
theorem test_witness_step_waits : ∃ t, atSilentWait.mode = .running ∧
    decodeBytes (atSilentWait.mem.read atSilentWait.pc.toNat)
      (atSilentWait.mem.read (atSilentWait.pc.toNat + 1)) = .ok (.ldVxK 5) ∧
    (Instr.ldVxK 5).WellFormed = true ∧
    exec (.ldVxK 5) { atSilentWait with pc := atSilentWait.pc + 2 } = .next t ∧ t.mode = .running ∧
    atSilentWait.latch = none ∧ atSilentWait.params.tickDuringWait = false :=
  ⟨_, rfl, by decide, rfl, rfl, rfl, rfl, rfl⟩

/-- UnrecognizedWordIsAReportedNoOp. -/
theorem test_witness_unrecognized : State.reset.mode = .running ∧
    decode State.reset.fetch = .error (.unrecognizedInstruction 0x0000) := ⟨rfl, by decide⟩

/-- HaltedCoreTakesNoCycle. -/
theorem test_witness_halted :
    State.mode { State.reset with mode := .halted .stackOverflow 0x200 } = .halted .stackOverflow 0x200 := rfl

/-- TimersTickOncePerCompletedCycle: a faulting cycle, a silent wait, Fx15, Fx18, and another. -/
theorem test_witness_timers :
    after atSkpOutOfRange (fun t => t.mode != .running) = true ∧
    (decode atSilentWait.fetch = .ok (.ldVxK 5) ∧ after atSilentWait (fun t => t.dt == 3) = true) ∧
    (decode (start 0xF115 State.reset).fetch = .ok (.ldDtVx 1) ∧
      after (start 0xF115 State.reset) (fun t => t.mode == .running) = true) ∧
    (decode (start 0xF118 State.reset).fetch = .ok (.ldStVx 1) ∧
      after (start 0xF118 State.reset) (fun t => t.mode == .running) = true) ∧
    after atAddImm (fun t => t.mode == .running) = true := by decide

/-- WrittenBytesReadBackAtMaskedAddresses: a run that wraps, and a byte outside it. -/
theorem test_witness_written_bytes : [(0xAA : Byte), 0xBB].length ≤ 4096 ∧
    [(0xAA : Byte), 0xBB][1]? = some 0xBB ∧ (0xFFF + 1) &&& 0xFFF = 0 ∧
    (∀ k < [(0xAA : Byte), 0xBB].length, (0xFFF + k) &&& 0xFFF ≠ 0x001 &&& 0xFFF) := by decide
/-- WrittenBytesReadBackAtMaskedAddresses: the longest run. -/
theorem test_witness_written_bytes_longest : (List.replicate 4096 (0xAA : Byte)).length ≤ 4096 := by
  rw [List.length_replicate]

/-- CanonicalMemoriesAreEqualWhenTheirBytesAre: two ways to one memory. -/
theorem test_witness_canonical :
    Memory.wf (Memory.write (Memory.write [] 5 7) 0xFFF 1) ∧
    Memory.wf (Memory.write (Memory.write [] 0xFFF 1) 5 7) ∧
    Memory.write (Memory.write [] 5 7) 0xFFF 1 = Memory.write (Memory.write [] 0xFFF 1) 5 7 ∧
    Memory.write (Memory.write [] 5 7) 5 0x20 = [] := by decide

/-- DrawFlipsExactlyTheSpritePixels: a covered pixel and one inside the box that is not covered. -/
theorem test_witness_covers : SpriteCovers State.reset 0 0 5 3 4 ∧ ¬ SpriteCovers State.reset 0 0 5 1 1 ∧
    ¬ SpriteCovers State.reset 0 0 0 0 0 := by
  unfold SpriteCovers
  decide
/-- SecondDrawRestoresTheDisplay: the two registers are not VF; DRW-3 then DRW again gives VF = 1. -/
theorem test_witness_second_draw : (0 : RegIdx) ≠ vf ∧ (0xE : RegIdx) ≠ vf ∧
    afterExec (.drw 0 1 5) (on 1 1 State.reset) (fun t => t.getV vf == 0 &&
      afterExec (.drw 0 1 5) t (fun u => u.getV vf == 1 && lit u == [(1, 1)])) = true := by decide

/-- ReturnPopsTheNewestEntry: depth 16 and depth 1 in the Fault mode, RET-3 in the Wrap mode. -/
theorem test_witness_return :
    (State.sp { State.reset with sp := 16 }).val ≠ 0 ∧
    afterExec .ret ({ State.reset with sp := 16 }.setStack 15 0x345) (fun t => t.sp == 15 && t.pc == 0x345)
      = true ∧
    afterExec .ret ({ State.reset with sp := 1 }.setStack 0 0x345) (fun t => t.sp == 0 && t.pc == 0x345)
      = true ∧
    afterExec .ret ({ State.reset with params := wrapParams }.setStack 15 0x234)
      (fun t => t.sp == 15 && t.pc == 0x234) = true := by decide

/-- CallStacksTheReturnAddress, ReturnUndoesCall: depth 15 in the Fault mode and in the Wrap mode, and a
return after the call. -/
theorem test_witness_call : (State.sp { State.reset with sp := 15 }).val < 16 ∧
    afterExec (.call 0x300) { State.reset with sp := 15 } (fun t => t.sp == 16 &&
      afterExec .ret t (fun r => r.pc == State.reset.pc && r.sp == 15)) = true ∧
    afterExec (.call 0x300) { State.reset with sp := 15, params := wrapParams } (fun t => t.sp == 0 &&
      afterExec .ret t (fun r => r.pc == State.reset.pc && r.sp == 15)) = true := by decide

/-- StackFaultsHaltTheCore: both ends of the stack in the Fault mode. -/
theorem test_witness_stack_faults : State.reset.params.stackMode = .fault ∧ State.reset.sp.val = 0 ∧
    (State.params { State.reset with sp := 16 }).stackMode = .fault ∧
    (State.sp { State.reset with sp := 16 }).val = 16 := by decide

/-- ParkedCoreStaysParked: JP-2, parked across the wrap of memory, at an address with high bits. -/
theorem test_witness_parked : (start 0x1FFF { State.reset with pc := 0x3FFF }).mode = .running ∧
    (start 0x1FFF { State.reset with pc := 0x3FFF }).Parked :=
  ⟨rfl, 0xFFF, by decide, by decide⟩

/-- AddSetsCarry, SubtractionsSetStrictNoBorrow, ShiftsMoveTheLostBitToVF: a register that is not VF; 255
and 256 as sums; equality in both subtractions. -/
theorem test_witness_alu : (0 : RegIdx) ≠ vf ∧ (0xE : RegIdx) ≠ vf ∧
    afterExec (.addReg 0 0xE) ((State.reset.setV 0 0xFF).setV 0xE 0) (fun t => t.getV vf == 0) = true ∧
    afterExec (.addReg 0 0xE) ((State.reset.setV 0 0xFF).setV 0xE 1) (fun t => t.getV vf == 1) = true ∧
    afterExec (.sub 0 0) (State.reset.setV 0 9) (fun t => t.getV vf == 0 && t.getV 0 == 0) = true ∧
    afterExec (.subn 0 0) (State.reset.setV 0 9) (fun t => t.getV vf == 0 && t.getV 0 == 0) = true := by
  decide

/-- RegisterStoreWritesTheRange, RegisterLoadReadsTheRange: x = 0 and x = F, at the register x itself. -/
theorem test_witness_ranges : (0 : RegIdx).toNat ≤ (0 : RegIdx).toNat ∧
    (0xF : RegIdx).toNat ≤ (0xF : RegIdx).toNat ∧
    afterExec (.ldMemVx 0xF) { State.reset.setV vf 0x5A with i := 0xFF0 }
      (fun t => t.mem.read 0xFFF == 0x5A) = true ∧
    afterExec (.ldMemVx 0) { State.reset.setV 0 0x5A with i := 0xFFF }
      (fun t => t.mem.read 0xFFF == 0x5A && t.mem.read 0 == 0xF0) = true := by decide
/-- LoadAfterStoreRestoresRegisters: the load runs with other register values between. -/
theorem test_witness_load_after_store : ∃ t, exec (.ldMemVx 1) (State.reset.setV 1 9) = .next t ∧
    State.mem { t with v := resetV } = t.mem ∧
    State.i { t with v := resetV } = (State.reset.setV 1 9).i := ⟨_, rfl, rfl, rfl⟩

/-- KeySkipsReadTheKeyLevel: keys 0 and 15, down and up. -/
theorem test_witness_key_skips :
    (State.reset.getV 0).toNat = (0 : KeyIdx).val ∧
    ((State.reset.setV 0 15).getV 0).toNat = (15 : KeyIdx).val ∧
    afterExec (.skp 0) (setKeyState 15 true (State.reset.setV 0 15)) (fun t => t.pc == 0x202) = true ∧
    afterExec (.sknp 0) (setKeyState 15 true (State.reset.setV 0 15)) (fun t => t.pc == 0x200) = true := by
  decide
/-- KeyIndexOutOfRangeHalts: 16 and 255. -/
theorem test_witness_key_range : 15 < ((State.reset.setV 4 16).getV 4).toNat ∧
    15 < ((State.reset.setV 4 255).getV 4).toNat := by decide

/-- DelayTimerIsReadBeforeTheTick, DelayTimerWriteIsTickedAtOnce, SoundTimerWriteIsTickedAtOnce: the word
is the one at PC. -/
theorem test_witness_timer_words :
    (start 0xF307 State.reset).mode = .running ∧
    (start 0xF307 State.reset).fetch = 0xF#4 ++ 0x3#4 ++ 0x07#8 ∧
    (start 0xF115 State.reset).mode = .running ∧
    (start 0xF115 State.reset).fetch = 0xF#4 ++ 0x1#4 ++ 0x15#8 ∧
    (start 0xF118 State.reset).mode = .running ∧
    (start 0xF118 State.reset).fetch = 0xF#4 ++ 0x1#4 ++ 0x18#8 := by decide

/-- WaitTakesALatchedKey, WaitWithoutAKeyRepeats. -/
theorem test_witness_wait : State.latch { State.reset with latch := some 15 } = some 15 ∧
    atSilentWait.latch = none ∧ atSilentWait.mode = .running ∧
    decode atSilentWait.fetch = .ok (.ldVxK 5) := by decide

/-- FaultsArePrecise: each of the three causes. -/
theorem test_witness_faults :
    (∃ t, step (start 0x00EE State.reset) = .next t ∧ t.mode = .halted .stackUnderflow 0x200) ∧
    (∃ t, step (start 0x2300 { State.reset with sp := 16 }) = .next t ∧
      t.mode = .halted .stackOverflow 0x200) ∧
    (∃ t, step atSkpOutOfRange = .next t ∧ t.mode = .halted .keyIndexRange 0x200) :=
  ⟨⟨_, rfl, by decide⟩, ⟨_, rfl, by decide⟩, ⟨_, rfl, by decide⟩⟩

/-- InstructionsWriteOnlyWhatTheTablesList, FlagInstructionsLeaveVFZeroOrOne: a flag instruction and one
that neither writes the flag nor names VF. -/
theorem test_witness_tables : (∃ t, exec (.addI 1) State.reset = .next t) ∧
    (∃ t, exec (.ldMemVx 0xF) State.reset = .next t) ∧
    writesFlag (.addI 1) = true ∧ writesFlag (.ldMemVx 0xF) = false ∧
    vf ∉ regsWritten (.ldMemVx 0xF) ∧ vf ∈ regsWritten (.ldVxMem 0xF) :=
  ⟨⟨_, rfl⟩, ⟨_, rfl⟩, rfl, rfl, by decide, by decide⟩

/-- RegistersOutsideTheReadTableDoNotMatter: the states differ in V3, which `ADD V1, V2` does not read. -/
theorem test_witness_reads :
    State.reset.setV 3 0x77 = { State.reset with v := (State.reset.setV 3 0x77).v } ∧
    (∀ r ∈ regsRead (.addReg 1 2), (State.reset.setV 3 0x77).getV r = State.reset.getV r) :=
  ⟨rfl, by decide⟩

/-- StepKeepsTheInvariant: a running state with a warning behind it, and its step. -/
theorem test_witness_invariant_running :
    State.Inv { atAddImm with diag := [⟨.unrecognizedInstruction, 0x1FE, 0x0000⟩] } ∧
    ∃ t, step { atAddImm with diag := [⟨.unrecognizedInstruction, 0x1FE, 0x0000⟩] } = .next t :=
  ⟨⟨by decide, by decide, fun _ => by decide, fun _ _ h => by cases h⟩, _, rfl⟩
/-- StepKeepsTheInvariant: a halted state can meet the invariant, and so can a Wrap state. -/
theorem test_witness_invariant_halted : State.Inv { State.reset with
    mode := .halted .stackUnderflow 0x1FE, diag := [⟨.fatal .stackUnderflow, 0x1FE, 0x00EE⟩]
    params := wrapParams, sp := 15 } :=
  ⟨⟨.nil, by decide⟩, by decide, (by intro h; cases h),
    (by rintro c a h; cases h; exact ⟨by decide, [], _, rfl, by decide⟩)⟩
/-- ReachableStatesMeetTheInvariant: a booted state, a key transition and a cycle. -/
theorem test_witness_reachable : ∃ s t u, defaultSetup.WellFormed = true ∧
    boot defaultSetup (some [0x12, 0x00]) = .ok s ∧ move (.key 7 true) s = .next t ∧
    move .cycle t = .next u ∧ Reachable u :=
  ⟨_, _, _, rfl, rfl, rfl, rfl, .move (m := .cycle)
    (.move (m := .key 7 true) (.boot (c := defaultSetup) (image := some [0x12, 0x00]) rfl rfl) rfl) rfl⟩

/-- HighPcBitsAreUnobservable: a running pair that differs in bits 15:12 of PC and of a stacked address,
and a halted pair. -/
theorem test_witness_samePc :
    State.SamePcLow12 (State.reset.setStack 0 0x302) ({ State.reset with pc := 0xF200 }.setStack 0 0x1302) ∧
    State.SamePcLow12 { State.reset with mode := .halted .keyIndexRange 0x200 }
      { State.reset with mode := .halted .keyIndexRange 0x1200 } :=
  ⟨⟨rfl, rfl, rfl, rfl, by unfold SameLow12; decide, rfl, rfl, rfl, rfl, rfl, rfl, trivial, rfl, rfl, .nil⟩,
    ⟨rfl, rfl, rfl, rfl, fun _ => rfl, rfl, rfl, rfl, rfl, rfl, rfl, ⟨rfl, rfl⟩, rfl, rfl, .nil⟩⟩

/-- KeyTransitionSetsLevelAndLatch: another key than the one that moves. -/
theorem test_witness_key_transition : (0 : KeyIdx) ≠ 15 ∧
    (setKeyState 15 true State.reset).getKey 0 = false ∧
    (setKeyState 15 true State.reset).getKey 15 = true := by decide

/-- ImageLoadPlacesTheBytes: the longest image that loads and the shortest that does not. -/
theorem test_witness_image : (List.replicate 3584 (0x12 : Byte)).length ≤ 3584 ∧
    3584 < (List.replicate 3585 (0x12 : Byte)).length := by
  simp only [List.length_replicate]; decide

/-- ResetLeavesTheSpecifiedState: both ends of the font and of the zeros. -/
theorem test_witness_reset : (hostReset defaultSetup).mem.read 0 = 0xF0 ∧
    (hostReset defaultSetup).mem.read 79 = 0x80 ∧ (hostReset defaultSetup).mem.read 80 = 0 ∧
    (hostReset defaultSetup).mem.read 4095 = 0 := by decide

end Sys2Proof.Tests
end

section
/-! Runs of bytes in memory (20_memory.md R40): what a byte reads as after `Memory.writeAll`. -/

namespace Sys2Proof.Machine

/-- At most 4096 consecutive addresses stay apart under the mask. -/
theorem maskAddr_add_ne {a j k : Nat} (hjk : j < k) (hk : k < j + 4096) :
    maskAddr (a + k) ≠ maskAddr (a + j) := by
  unfold maskAddr
  omega

/-- The frame of a run of writes: an address whose masked value no written address has. -/
theorem Memory.read_writeAll_of_ne (m : Memory) (a c : Nat) (bs : List Byte)
    (h : ∀ k < bs.length, maskAddr (a + k) ≠ maskAddr c) :
    (m.writeAll a bs).read c = m.read c := by
  induction bs generalizing m a with
  | nil => rw [Memory.writeAll_nil]
  | cons b bs ih =>
    have hhead : maskAddr c ≠ maskAddr a := (h 0 (by simp)).symm
    have htail : ∀ k < bs.length, maskAddr (a + 1 + k) ≠ maskAddr c := fun k hk => by
      rw [Nat.add_right_comm]
      exact h (k + 1) (Nat.succ_lt_succ hk)
    rw [Memory.writeAll_cons, ih _ _ htail, Memory.read_write, if_neg hhead]

/-- Each byte of a run of at most 4096 reads back: the writes after its own are all elsewhere. -/
theorem Memory.read_writeAll_of_getElem? (m : Memory) (a k : Nat) (b : Byte) (bs : List Byte)
    (hlen : bs.length ≤ 4096) (hb : bs[k]? = some b) :
    (m.writeAll a bs).read (a + k) = b := by
  induction bs generalizing m a k with
  | nil => simp at hb
  | cons d bs ih =>
    rw [List.length_cons] at hlen
    rw [Memory.writeAll_cons]
    cases k with
    | zero =>
      have hd : d = b := by simpa using hb
      have hlater : ∀ j < bs.length, maskAddr (a + 1 + j) ≠ maskAddr a := fun j hj => by
        rw [Nat.add_assoc]
        exact maskAddr_add_ne (j := 0) (by omega) (by omega)
      rw [Nat.add_zero a, Memory.read_writeAll_of_ne _ _ _ _ hlater, Memory.read_write, if_pos rfl, hd]
    | succ k =>
      rw [← Nat.add_assoc, Nat.add_right_comm]
      exact ih _ _ _ (by omega) (by simpa using hb)

/-- Settles O11: the bitwise mask is `maskAddr`, under which a read is unchanged; the rest is what a byte
reads as after a run, at an address of the run and at another. -/
theorem writtenBytesReadBackAtMaskedAddresses :
    Obligations.WrittenBytesReadBackAtMaskedAddresses := by
  unfold Obligations.WrittenBytesReadBackAtMaskedAddresses
  simp only [← maskAddr_eq_and, Memory.read_maskAddr, implies_true, true_and]
  exact fun m a bs hlen =>
    ⟨fun k b hb => m.read_writeAll_of_getElem? a k b bs hlen hb,
      fun c hc => m.read_writeAll_of_ne a c bs hc⟩

end Sys2Proof.Machine
end

section
/-! The second keys of the primary nibbles 0, 5, 9, E and F (30_encoding.md R64, R66 to R68): each family's
dispatch as tests of its key against the listed values. The decoder compares keys as numbers, so every
lemma first passes from the key to its number. -/

namespace Sys2Proof

theorem toNat_address_zero (nnn : Addr12) : (0x0#4 ++ nnn : Word).toNat = nnn.toNat := by
  rw [BitVec.toNat_append]
  simp

theorem decodeOp0_address (nnn : Addr12) : decodeOp0 (0x0#4 ++ nnn) =
    if nnn = 0x0E0 then .ok .cls else if nnn = 0x0EE then .ok .ret
    else .error (.unrecognizedInstruction (0x0#4 ++ nnn)) := by
  simp only [decodeOp0, toNat_address_zero, ← BitVec.toNat_inj]
  split <;> simp_all

theorem decodeOp5_eq (w : Word) : decodeOp5 w =
    if fieldN w = 0 then .ok (.seReg (fieldX w) (fieldY w))
    else .error (.unrecognizedInstruction w) := by
  simp only [decodeOp5, ← BitVec.toNat_inj]
  split <;> simp_all

theorem decodeOp9_eq (w : Word) : decodeOp9 w =
    if fieldN w = 0 then .ok (.sneReg (fieldX w) (fieldY w))
    else .error (.unrecognizedInstruction w) := by
  simp only [decodeOp9, ← BitVec.toNat_inj]
  split <;> simp_all

theorem decodeOpE_eq (w : Word) : decodeOpE w =
    if fieldKK w = 0x9E then .ok (.skp (fieldX w))
    else if fieldKK w = 0xA1 then .ok (.sknp (fieldX w))
    else .error (.unrecognizedInstruction w) := by
  simp only [decodeOpE, ← BitVec.toNat_inj]
  split <;> simp_all

theorem decodeOpF_eq (w : Word) : decodeOpF w =
    if fieldKK w = 0x07 then .ok (.ldVxDt (fieldX w))
    else if fieldKK w = 0x0A then .ok (.ldVxK (fieldX w))
    else if fieldKK w = 0x15 then .ok (.ldDtVx (fieldX w))
    else if fieldKK w = 0x18 then .ok (.ldStVx (fieldX w))
    else if fieldKK w = 0x1E then .ok (.addI (fieldX w))
    else if fieldKK w = 0x29 then .ok (.ldF (fieldX w))
    else if fieldKK w = 0x33 then .ok (.ldB (fieldX w))
    else if fieldKK w = 0x55 then .ok (.ldMemVx (fieldX w))
    else if fieldKK w = 0x65 then .ok (.ldVxMem (fieldX w))
    else .error (.unrecognizedInstruction w) := by
  simp only [decodeOpF, ← BitVec.toNat_inj]
  split <;> simp_all

/-- Settles O5: the primary nibble selects the family, whose dispatch tests the second key. -/
theorem sharedNibblesDecodeByTheirSecondKey : Obligations.SharedNibblesDecodeByTheirSecondKey := by
  unfold Obligations.SharedNibblesDecodeByTheirSecondKey
  refine ⟨fun nnn => ?zero, fun x kk => ?e, fun x kk => ?f, fun x y n => ?five, fun x y n => ?nine⟩
  case zero => simp [decode, decodeOp0_address]
  case e => simp [decode, decodeOpE_eq]
  case f => simp [decode, decodeOpF_eq]
  case five => simp [decode, decodeOp5_eq]
  case nine => simp [decode, decodeOp9_eq]

end Sys2Proof
end

section
/-! The fetched word as a number (30_encoding.md R60). -/

namespace Sys2Proof

theorem toNat_wordOfBytes (hi lo : Byte) : (wordOfBytes hi lo).toNat = 256 * hi.toNat + lo.toNat := by
  rw [wordOfBytes, BitVec.toNat_append, ← Nat.shiftLeft_add_eq_or_of_lt lo.isLt, Nat.shiftLeft_eq,
    Nat.mul_comm]

end Sys2Proof

namespace Sys2Proof.Machine

/-- Settles O7: a byte reads the same at its masked address, and the word is the two bytes, high first. -/
theorem fetchIsBigEndianAndWraps : Obligations.FetchIsBigEndianAndWraps := by
  unfold Obligations.FetchIsBigEndianAndWraps
  intro s
  have hmask (a : Nat) : s.mem.read (a % 4096) = s.mem.read a := s.mem.read_maskAddr a
  rw [State.fetch, toNat_wordOfBytes, hmask, hmask]

end Sys2Proof.Machine
end

section
/-! CLS (40_display.md R75): the display buffer is its whole write. -/

namespace Sys2Proof.Machine

theorem exec_cls (s : State) : exec .cls s = .next { s with disp := clearDisplay } := rfl

/-- Every part of the frame but the display reads fields other than the display buffer. -/
theorem frame_of_disp (s : State) (d : Display) : Frame [] [] [.display] s { s with disp := d } := by
  refine ⟨fun _ _ => rfl, fun _ _ => rfl, fun p hp => ?parts, fun _ => rfl, rfl⟩
  case parts =>
    cases p
    case display => exact absurd (List.mem_singleton_self _) hp
    case stack => exact ⟨rfl, fun _ => rfl⟩
    all_goals rfl

/-- Settles O13: CLS replaces the display buffer by the clear one, whose pixels are all 0. -/
theorem clearDisplayZeroesEveryPixel : Obligations.ClearDisplayZeroesEveryPixel := by
  unfold Obligations.ClearDisplayZeroesEveryPixel
  have hdecode : decode 0x00E0 = .ok .cls := by decide
  exact ⟨hdecode, fun s =>
    ⟨_, exec_cls s, fun px py => Display.get_clear px py, frame_of_disp s clearDisplay⟩⟩

end Sys2Proof.Machine
end

section
/-! Control transfer (41_control_flow.md R80 to R84): the skips and JP V0 write PC alone. -/

namespace Sys2Proof.Machine

/-- Every part of the frame but PC reads fields other than PC. -/
theorem frame_setPc (s : State) (w : Word) : Frame [] [] [.pc] s (s.setPc w) := by
  refine ⟨fun _ _ => rfl, fun _ _ => rfl, fun p hp => ?parts, fun _ => rfl, rfl⟩
  case parts =>
    cases p
    case pc => exact absurd (List.mem_singleton_self _) hp
    case stack => exact ⟨rfl, fun _ => rfl⟩
    case display => exact fun _ _ => rfl
    all_goals rfl

theorem frame_skipIf (s : State) (c : Bool) : Frame [] [] [.pc] s (s.skipIf c) := by
  rw [State.skipIf_eq]
  exact frame_setPc s _

theorem State.toNat_skipIf_pc (s : State) (c : Bool) :
    (s.skipIf c).pc.toNat = if c then (s.pc.toNat + 2) % 65536 else s.pc.toNat := by
  cases c with
  | false => rfl
  | true => exact BitVec.toNat_add s.pc 2

/-- All that a skip instruction does, for the condition `p` that its boolean test decides. -/
theorem exec_skip {i : Instr} {s : State} {c : Bool} {p : Prop} [Decidable p]
    (hexec : exec i s = .next (s.skipIf c)) (hc : c = true ↔ p) :
    ∃ t, exec i s = .next t ∧
      t.pc.toNat = (if p then (s.pc.toNat + 2) % 65536 else s.pc.toNat) ∧
      Frame [] [] [.pc] s t := by
  refine ⟨_, hexec, ?_, frame_skipIf s c⟩
  simp only [State.toNat_skipIf_pc, hc]

theorem exec_seImm (x : RegIdx) (kk : Byte) (s : State) :
    exec (.seImm x kk) s = .next (s.skipIf (s.getV x == kk)) := rfl

theorem exec_sneImm (x : RegIdx) (kk : Byte) (s : State) :
    exec (.sneImm x kk) s = .next (s.skipIf (s.getV x != kk)) := rfl

theorem exec_seReg (x y : RegIdx) (s : State) :
    exec (.seReg x y) s = .next (s.skipIf (s.getV x == s.getV y)) := rfl

theorem exec_sneReg (x y : RegIdx) (s : State) :
    exec (.sneReg x y) s = .next (s.skipIf (s.getV x != s.getV y)) := rfl

theorem exec_jpV0 (nnn : Addr12) (s : State) :
    exec (.jpV0 nnn) s = .next (s.setPc (zext16 nnn + byteToWord (s.getV 0))) := rfl

/-- Settles O21: the two primary nibbles decode alike, and each instruction is a skip on its test. -/
theorem immediateSkips : Obligations.ImmediateSkips := by
  unfold Obligations.ImmediateSkips
  refine fun x kk => ⟨?se, ?sne, fun s =>
    ⟨exec_skip (exec_seImm x kk s) beq_iff_eq, exec_skip (exec_sneImm x kk s) bne_iff_ne⟩⟩
  case se => simp [decode]
  case sne => simp [decode]

/-- Settles O22: each instruction is a skip on its test; the decoding is O5's for nibbles 5 and 9. -/
theorem registerSkips : Obligations.RegisterSkips := by
  unfold Obligations.RegisterSkips
  obtain ⟨-, -, -, hfive, hnine⟩ := sharedNibblesDecodeByTheirSecondKey
  exact fun x y s =>
    ⟨exec_skip (exec_seReg x y s) beq_iff_eq, exec_skip (exec_sneReg x y s) bne_iff_ne,
      hfive x y, hnine x y⟩

/-- The target of JP V0 never wraps 16 bits (41_control_flow.md R84). -/
theorem toNat_zext16_add_byteToWord (nnn : Addr12) (b : Byte) :
    (zext16 nnn + byteToWord b).toNat = nnn.toNat + b.toNat := by
  have hnnn := nnn.isLt
  have hb := b.isLt
  simp only [zext16, byteToWord, BitVec.toNat_add, BitVec.toNat_setWidth]
  omega

/-- The fetch masks each of its two addresses (30_encoding.md R60). -/
theorem State.fetch_eq_masked (s : State) : s.fetch =
    wordOfBytes (s.mem.read (s.pc.toNat &&& 0xFFF)) (s.mem.read ((s.pc.toNat + 1) &&& 0xFFF)) := by
  simp only [← maskAddr_eq_and, Memory.read_maskAddr, State.fetch]

/-- Settles O23: PC holds the exact sum, so the next fetch masks that sum. -/
theorem jumpWithOffsetAddsV0 : Obligations.JumpWithOffsetAddsV0 := by
  unfold Obligations.JumpWithOffsetAddsV0
  refine fun nnn => ⟨?decodes, fun s => ⟨_, exec_jpV0 nnn s, ?_⟩⟩
  case decodes => simp [decode]
  have hpc := toNat_zext16_add_byteToWord nnn (s.getV 0)
  have hnnn := nnn.isLt
  have hv := (s.getV 0).isLt
  refine ⟨hpc, ?bound, ?fetch, frame_setPc s _⟩
  case bound =>
    rw [State.setPc_pc, hpc]
    omega
  case fetch => rw [State.fetch_eq_masked, State.setPc_pc, State.setPc_mem, hpc]

end Sys2Proof.Machine
end

section
/-! LD and ADD of an immediate byte (42_alu.md R86, R87): the write of Vx is all that they do. -/

namespace Sys2Proof.Machine

/-- A register write leaves every other register, and all that is no register, as it was. -/
theorem frame_setV (s : State) (x : RegIdx) (b : Byte) : Frame [x] [] [] s (s.setV x b) := by
  refine ⟨fun r hr => ?regs, fun _ _ => rfl, fun p _ => ?parts, fun _ => rfl, rfl⟩
  case regs => rw [State.getV_setV, if_neg (List.mem_singleton.not.mp hr)]
  case parts =>
    cases p
    case stack => exact ⟨rfl, fun _ => rfl⟩
    case display => exact fun _ _ => rfl
    all_goals rfl

theorem exec_ldImm (x : RegIdx) (kk : Byte) (s : State) :
    exec (.ldImm x kk) s = .next (s.setV x kk) := rfl

theorem exec_addImm (x : RegIdx) (kk : Byte) (s : State) :
    exec (.addImm x kk) s = .next (s.setV x (s.getV x + kk)) := rfl

/-- Settles O25: primary nibble 6 alone selects LD Vx, byte, which is one register write. -/
theorem loadImmediateSetsVxAlone : Obligations.LoadImmediateSetsVxAlone := by
  unfold Obligations.LoadImmediateSetsVxAlone
  refine fun x kk => ⟨?decodes, fun s =>
    ⟨_, exec_ldImm x kk s, State.getV_setV_same s x kk, frame_setV s x kk⟩⟩
  case decodes => simp [decode]

/-- Settles O26: the write is one 8-bit sum, which wraps by itself; for x other than F the frame of the
write keeps VF. -/
theorem addImmediateWrapsWithoutFlag : Obligations.AddImmediateWrapsWithoutFlag := by
  unfold Obligations.AddImmediateWrapsWithoutFlag
  refine fun x kk => ⟨?decodes, fun s => ⟨_, exec_addImm x kk s, ?sum, frame_setV s x _⟩⟩
  case decodes => simp [decode]
  case sum => rw [State.getV_setV_same, BitVec.toNat_add]

end Sys2Proof.Machine
end

section
/-! LD I and LD F (43_index_memory.md R99, R101): the write of I is all that they do. -/

namespace Sys2Proof.Machine

/-- Every part of the frame but I reads fields other than I. -/
theorem frame_setI (s : State) (w : Word) : Frame [] [] [.index] s (s.setI w) := by
  refine ⟨fun _ _ => rfl, fun _ _ => rfl, fun p hp => ?parts, fun _ => rfl, rfl⟩
  case parts =>
    cases p
    case index => exact absurd (List.mem_singleton_self _) hp
    case stack => exact ⟨rfl, fun _ => rfl⟩
    case display => exact fun _ _ => rfl
    all_goals rfl

theorem exec_ldI (nnn : Addr12) (s : State) : exec (.ldI nnn) s = .next (s.setI (zext16 nnn)) := rfl

theorem exec_ldF (x : RegIdx) (s : State) :
    exec (.ldF x) s = .next (s.setI (byteToWord (s.getV x) * 5)) := rfl

theorem toNat_zext16 (nnn : Addr12) : (zext16 nnn).toNat = nnn.toNat :=
  BitVec.toNat_setWidth_of_le (by decide)

/-- Five times a byte is at most 1275, so the 16-bit product is exact (43_index_memory.md R101). -/
theorem toNat_byteToWord_mul_five (b : Byte) : (byteToWord b * 5).toNat = b.toNat * 5 := by
  have hword : (byteToWord b).toNat = b.toNat := BitVec.toNat_setWidth_of_le (by decide)
  have hfits : b.toNat * 5 < 2 ^ 16 := by have := b.isLt; omega
  rw [BitVec.toNat_mul, hword]
  exact Nat.mod_eq_of_lt hfits

/-- Settles O32: primary nibble A alone selects LD I, and the zero-extended address has its value. -/
theorem loadIndexSetsI : Obligations.LoadIndexSetsI := by
  unfold Obligations.LoadIndexSetsI
  refine fun nnn => ⟨?decodes, fun s => ⟨_, exec_ldI nnn s, toNat_zext16 nnn, frame_setI s _⟩⟩
  case decodes => simp [decode]

/-- Settles O34: second key 29 of primary nibble F selects LD F, whose product does not wrap. -/
theorem glyphAddressIsFiveTimesVx : Obligations.GlyphAddressIsFiveTimesVx := by
  unfold Obligations.GlyphAddressIsFiveTimesVx
  refine fun x => ⟨?decodes, fun s =>
    ⟨_, exec_ldF x s, toNat_byteToWord_mul_five (s.getV x), frame_setI s _⟩⟩
  case decodes => simp [decode, decodeOpF_eq]

end Sys2Proof.Machine
end

section
/-! Stores at I (20_memory.md R41; 43_index_memory.md R102): what a run of bytes stored from MEM[I] on
leaves in memory, and LD B, which stores the three decimal digits of Vx so. -/

namespace Sys2Proof.Machine

/-- A run of bytes stored at I writes the masked addresses of the run and nothing else. -/
theorem frame_memWrite_index (s : State) (bs : List Byte) :
    Frame [] ((List.range bs.length).map fun k => maskAddr (s.indexAddr k)) [] s
      (s.memWrite (s.indexAddr 0) bs) := by
  refine ⟨fun _ _ => rfl, fun a ha => ?bytes, fun p _ => ?parts, fun _ => rfl, rfl⟩
  case bytes =>
    refine Memory.read_writeAll_of_ne _ _ _ _ fun k hk hka => ha ?_
    exact List.mem_map.mpr ⟨k, List.mem_range.mpr hk, hka⟩
  case parts =>
    cases p
    case stack => exact ⟨rfl, fun _ => rfl⟩
    case display => exact fun _ _ => rfl
    all_goals rfl

/-- Each byte of a run of at most 4096 stored at I reads back at its own index-relative address. -/
theorem read_memWrite_index (s : State) {bs : List Byte} {k : Nat} {b : Byte}
    (hlen : bs.length ≤ 4096) (hb : bs[k]? = some b) :
    (s.memWrite (s.indexAddr 0) bs).mem.read (s.indexAddr k) = b :=
  s.mem.read_writeAll_of_getElem? s.i.toNat k b bs hlen hb

theorem exec_ldB (x : RegIdx) (s : State) :
    exec (.ldB x) s = .next (s.memWrite (s.indexAddr 0) (decimalDigits (s.getV x))) := rfl

/-- Once the digits of a byte are stored at I, the byte at `I + k` has the value of the digit in place k. -/
theorem toNat_read_memWrite_digits (s : State) (b : Byte) {k n : Nat} (hn : n < 256)
    (hdigit : (decimalDigits b)[k]? = some (BitVec.ofNat 8 n)) :
    ((s.memWrite (s.indexAddr 0) (decimalDigits b)).mem.read (s.indexAddr k)).toNat = n := by
  have hlen : (decimalDigits b).length ≤ 4096 := by simp [decimalDigits]
  rw [read_memWrite_index s hlen hdigit, BitVec.toNat_ofNat, Nat.mod_eq_of_lt hn]

/-- Settles O35: each digit reads back at its place, PC is no part of the store, and the frame is that of a
run of three bytes at I. -/
theorem decimalDigitsAreStoredAtIndex : Obligations.DecimalDigitsAreStoredAtIndex := by
  unfold Obligations.DecimalDigitsAreStoredAtIndex
  refine fun x => ⟨?decodes, fun s => ⟨_, exec_ldB x s, ?hundreds, ?tens, ?ones, rfl,
    frame_memWrite_index s (decimalDigits (s.getV x))⟩⟩
  case decodes => simp [decode, decodeOpF_eq]
  case hundreds | tens | ones =>
    have hv := (s.getV x).isLt
    exact toNat_read_memWrite_digits s _ (by omega) rfl

end Sys2Proof.Machine
end

section
/-! The timer instructions (44_timers_input.md R107, R109, R110) and the tick that ends their cycle
(30_encoding.md R62; 60_exceptions.md R121): each reads or writes a timer before that tick. -/

namespace Sys2Proof.Machine

/-- A cycle whose instruction is not Fx0A and takes no fault ends with the tick (30_encoding.md R62). -/
theorem step_eq_tick {i : Instr} {s t : State} {w : Word} (hmode : s.mode = .running)
    (hfetch : s.fetch = w) (hdecode : decode w = .ok i) (hexec : exec i s.beginCycle = .next t)
    (hrunning : t.mode = .running) (hwait : isWaitKey i = false) : step s = .next t.tick := by
  have hcycle : step s = .next (endCycle i s t) := by
    simp only [step, hmode, hfetch, hdecode, hexec, finishCycle]
  rcases endCycle_cases i s t with ⟨c, a, hhalted, -⟩ | ⟨-, hwaits, -⟩ | ⟨-, -, htick⟩
  · simp [hrunning] at hhalted
  · simp [hwait] at hwaits
  · rw [hcycle, htick]

/-- The frame of a change of the timers: each one that differs must be among the parts. -/
theorem frame_of_timers (s : State) (d e : Byte) {parts : List Part}
    (hdt : .dt ∈ parts ∨ d = s.dt) (hst : .st ∈ parts ∨ e = s.st) :
    Frame [] [] parts s { s with dt := d, st := e } := by
  refine ⟨fun _ _ => rfl, fun _ _ => rfl, fun p hp => ?parts, fun _ => rfl, rfl⟩
  case parts =>
    cases p
    case dt => exact hdt.resolve_left hp
    case st => exact hst.resolve_left hp
    case stack => exact ⟨rfl, fun _ => rfl⟩
    case display => exact fun _ _ => rfl
    all_goals rfl

theorem frame_setDt (s : State) (b : Byte) : Frame [] [] [.dt] s (s.setDt b) :=
  frame_of_timers s b s.st (.inl (List.mem_singleton_self _)) (.inr rfl)

theorem frame_setSt (s : State) (b : Byte) : Frame [] [] [.st] s (s.setSt b) :=
  frame_of_timers s s.dt b (.inr rfl) (.inl (List.mem_singleton_self _))

theorem soundActive_eq_decide (s : State) : soundActive s = decide (0 < s.st.toNat) := by
  have hpos : s.st ≠ 0 ↔ 0 < s.st.toNat := by
    simp [Nat.pos_iff_ne_zero, ← BitVec.toNat_inj]
  rw [Bool.eq_iff_iff, soundActive, bne_iff_ne, hpos, decide_eq_true_iff]

theorem exec_ldVxDt (x : RegIdx) (s : State) : exec (.ldVxDt x) s = .next (s.setV x s.dt) := rfl

theorem exec_ldDtVx (x : RegIdx) (s : State) :
    exec (.ldDtVx x) s = .next (s.setDt (s.getV x)) := rfl

theorem exec_ldStVx (x : RegIdx) (s : State) :
    exec (.ldStVx x) s = .next (s.setSt (s.getV x)) := rfl

/-- Settles O41: the tick follows the register write and changes no register, so Vx keeps the DT that the
cycle began with. -/
theorem delayTimerIsReadBeforeTheTick : Obligations.DelayTimerIsReadBeforeTheTick := by
  unfold Obligations.DelayTimerIsReadBeforeTheTick
  intro x
  have hdecode : decode (0xF#4 ++ x ++ 0x07#8) = .ok (.ldVxDt x) := by simp [decode, decodeOpF_eq]
  refine ⟨hdecode, fun s => ⟨_, exec_ldVxDt x s, State.getV_setV_same s x _, frame_setV s x _⟩,
    fun s hmode hfetch =>
      ⟨_, step_eq_tick hmode hfetch hdecode (exec_ldVxDt x _) hmode rfl, ?vx, ?dt⟩⟩
  case vx => exact State.getV_setV_same s.beginCycle x s.dt
  case dt => exact tickByte_toNat s.dt

/-- Settles O44: the tick lowers the byte that the instruction has just written to DT. -/
theorem delayTimerWriteIsTickedAtOnce : Obligations.DelayTimerWriteIsTickedAtOnce := by
  unfold Obligations.DelayTimerWriteIsTickedAtOnce
  intro x
  have hdecode : decode (0xF#4 ++ x ++ 0x15#8) = .ok (.ldDtVx x) := by simp [decode, decodeOpF_eq]
  exact ⟨hdecode, fun s => ⟨_, exec_ldDtVx x s, rfl, frame_setDt s _⟩, fun s hmode hfetch =>
    ⟨_, step_eq_tick hmode hfetch hdecode (exec_ldDtVx x _) hmode rfl, tickByte_toNat (s.getV x)⟩⟩

/-- Settles O45: the tick lowers the byte just written to ST, and what is left is above 0 exactly when Vx
was above 1. -/
theorem soundTimerWriteIsTickedAtOnce : Obligations.SoundTimerWriteIsTickedAtOnce := by
  unfold Obligations.SoundTimerWriteIsTickedAtOnce
  intro x
  have hdecode : decode (0xF#4 ++ x ++ 0x18#8) = .ok (.ldStVx x) := by simp [decode, decodeOpF_eq]
  refine ⟨hdecode, fun s => ⟨_, exec_ldStVx x s, rfl, frame_setSt s _⟩, fun s hmode hfetch =>
    ⟨_, step_eq_tick hmode hfetch hdecode (exec_ldStVx x _) hmode rfl, ?_⟩⟩
  have hst : (s.beginCycle.setSt (s.beginCycle.getV x)).tick.st.toNat = (s.getV x).toNat - 1 :=
    tickByte_toNat (s.getV x)
  refine ⟨hst, ?sound⟩
  case sound => simp only [soundActive_eq_decide, hst, Nat.sub_pos_iff_lt]

end Sys2Proof.Machine
end

section
/-! The decoder and the encoder are inverse to each other, and the opcode table is the decoder's domain
(30_encoding.md R63 to R70; primary nibble 8 by log 19). -/

namespace Sys2Proof

theorem decodeOp8_eq (w : Word) : decodeOp8 w =
    if fieldN w = 0x0 then .ok (.ldReg (fieldX w) (fieldY w))
    else if fieldN w = 0x1 then .ok (.or (fieldX w) (fieldY w))
    else if fieldN w = 0x2 then .ok (.and (fieldX w) (fieldY w))
    else if fieldN w = 0x3 then .ok (.xor (fieldX w) (fieldY w))
    else if fieldN w = 0x4 then .ok (.addReg (fieldX w) (fieldY w))
    else if fieldN w = 0x5 then .ok (.sub (fieldX w) (fieldY w))
    else if fieldN w = 0x6 then .ok (.shr (fieldX w) (fieldY w))
    else if fieldN w = 0x7 then .ok (.subn (fieldX w) (fieldY w))
    else if fieldN w = 0xE then .ok (.shl (fieldX w) (fieldY w))
    else .error (.unrecognizedInstruction w) := by
  simp only [decodeOp8, ← BitVec.toNat_inj]
  split <;> simp_all

/-- The primary nibble selects the dispatch, and the second key of the family's words is the encoder's. -/
theorem decode_encode (i : Instr) : decode (encode i) = .ok i := by
  cases i
  case cls | ret => decide
  case jp | call | ldI | jpV0 => simp [decode, encode]
  case seImm | sneImm | ldImm | addImm | rnd | drw => simp [decode, encode]
  case seReg => simp [decode, encode, decodeOp5_eq]
  case sneReg => simp [decode, encode, decodeOp9_eq]
  case ldReg | or | and | xor | addReg | sub | shr | subn | shl =>
    simp [decode, encode, decodeOp8_eq]
  case skp | sknp => simp [decode, encode, decodeOpE_eq]
  case ldVxDt | ldVxK | ldDtVx | ldStVx | addI | ldF | ldB | ldMemVx | ldVxMem =>
    simp [decode, encode, decodeOpF_eq]

/-- Settles O2: the check on instructions refuses nothing, so the round trip is that of every term. -/
theorem decodeOfEncodeIsIdentity : Obligations.DecodeOfEncodeIsIdentity := by
  unfold Obligations.DecodeOfEncodeIsIdentity
  exact fun i _ => decode_encode i

/-! A word is put together again from its primary nibble and its fields, so the encoder undoes each family's
dispatch. -/

theorem append_fieldNNN {w : Word} {op : Nibble} (hop : fieldOp w = op) : op ++ fieldNNN w = w :=
  hop ▸ (word_eq_address w).symm

theorem append_fieldX_fieldKK {w : Word} {op : Nibble} (hop : fieldOp w = op) :
    op ++ fieldX w ++ fieldKK w = w :=
  hop ▸ (word_eq_byte w).symm

theorem append_fieldX_fieldY_fieldN {w : Word} {op : Nibble} (hop : fieldOp w = op) :
    op ++ fieldX w ++ fieldY w ++ fieldN w = w :=
  hop ▸ (word_eq_nibbles w).symm

theorem encode_of_decodeOp0 {w : Word} {i : Instr} (h : decodeOp0 w = .ok i) : encode i = w := by
  unfold decodeOp0 at h
  split at h
  case h_1 hw | h_2 hw =>
    cases h
    exact BitVec.eq_of_toNat_eq hw.symm
  case h_3 => cases h

theorem encode_of_decodeOp5 {w : Word} {i : Instr} (hop : fieldOp w = 0x5#4)
    (h : decodeOp5 w = .ok i) : encode i = w := by
  have hw := append_fieldX_fieldY_fieldN hop
  grind [decodeOp5_eq, encode]

theorem encode_of_decodeOp8 {w : Word} {i : Instr} (hop : fieldOp w = 0x8#4)
    (h : decodeOp8 w = .ok i) : encode i = w := by
  have hw := append_fieldX_fieldY_fieldN hop
  grind [decodeOp8_eq, encode]

theorem encode_of_decodeOp9 {w : Word} {i : Instr} (hop : fieldOp w = 0x9#4)
    (h : decodeOp9 w = .ok i) : encode i = w := by
  have hw := append_fieldX_fieldY_fieldN hop
  grind [decodeOp9_eq, encode]

theorem encode_of_decodeOpE {w : Word} {i : Instr} (hop : fieldOp w = 0xE#4)
    (h : decodeOpE w = .ok i) : encode i = w := by
  have hw := append_fieldX_fieldKK hop
  grind [decodeOpE_eq, encode]

theorem encode_of_decodeOpF {w : Word} {i : Instr} (hop : fieldOp w = 0xF#4)
    (h : decodeOpF w = .ok i) : encode i = w := by
  have hw := append_fieldX_fieldKK hop
  grind [decodeOpF_eq, encode]

theorem encode_of_decode {w : Word} {i : Instr} (h : decode w = .ok i) : encode i = w := by
  have hnibble {k : Nat} (hk : (fieldOp w).toNat = k) : fieldOp w = BitVec.ofNat 4 k := by
    rw [← hk, BitVec.ofNat_toNat, BitVec.setWidth_eq]
  unfold decode at h
  split at h
  case h_1 => exact encode_of_decodeOp0 h
  case h_2 hop | h_3 hop | h_11 hop | h_12 hop => cases h; exact append_fieldNNN (hnibble hop)
  case h_4 hop | h_5 hop | h_7 hop | h_8 hop | h_13 hop =>
    cases h; exact append_fieldX_fieldKK (hnibble hop)
  case h_14 hop => cases h; exact append_fieldX_fieldY_fieldN (hnibble hop)
  case h_6 hop => exact encode_of_decodeOp5 (hnibble hop) h
  case h_9 hop => exact encode_of_decodeOp8 (hnibble hop) h
  case h_10 hop => exact encode_of_decodeOp9 (hnibble hop) h
  case h_15 hop => exact encode_of_decodeOpE (hnibble hop) h
  case h_16 =>
    have hop : (fieldOp w).toNat = 15 := by
      have := (fieldOp w).isLt
      grind
    exact encode_of_decodeOpF (hnibble hop) h

/-- Settles O3: the encoder undoes the dispatch of every primary nibble. -/
theorem encodeOfDecodeIsIdentity : Obligations.EncodeOfDecodeIsIdentity := by
  unfold Obligations.EncodeOfDecodeIsIdentity
  exact fun _ _ => encode_of_decode

/-! The rows of the opcode table: a word that matches a row has the row's primary nibble and, where the
mask keeps it, the row's second key. -/

theorem fieldOp_and (w m : Word) : fieldOp (w &&& m) = fieldOp w &&& fieldOp m :=
  BitVec.extractLsb'_and

theorem fieldN_and (w m : Word) : fieldN (w &&& m) = fieldN w &&& fieldN m :=
  BitVec.extractLsb'_and

theorem fieldKK_and (w m : Word) : fieldKK (w &&& m) = fieldKK w &&& fieldKK m :=
  BitVec.extractLsb'_and

theorem and_mask_eq_pattern {r : OpcodeRow} {w : Word} (h : r.matchesWord w = true) :
    w &&& r.mask = r.pattern := beq_iff_eq.mp h

theorem fieldOp_eq_of_matchesWord {r : OpcodeRow} {w : Word} (hr : r ∈ opcodeTable)
    (h : r.matchesWord w = true) : fieldOp w = fieldOp r.pattern := by
  have hmask : ∀ r ∈ opcodeTable, fieldOp r.mask = BitVec.allOnes 4 := by decide
  rw [← and_mask_eq_pattern h, fieldOp_and, hmask r hr, BitVec.and_allOnes]

theorem fieldN_eq_of_matchesWord {r : OpcodeRow} {w : Word} (hmask : fieldN r.mask = BitVec.allOnes 4)
    (h : r.matchesWord w = true) : fieldN w = fieldN r.pattern := by
  rw [← and_mask_eq_pattern h, fieldN_and, hmask, BitVec.and_allOnes]

theorem fieldKK_eq_of_matchesWord {r : OpcodeRow} {w : Word}
    (hmask : fieldKK r.mask = BitVec.allOnes 8) (h : r.matchesWord w = true) :
    fieldKK w = fieldKK r.pattern := by
  rw [← and_mask_eq_pattern h, fieldKK_and, hmask, BitVec.and_allOnes]

/-- Recognition depends on the primary nibble and the second key that its family tests, if it tests one. -/
theorem isOk_decode_congr {w v : Word} (hop : fieldOp w = fieldOp v)
    (hword : fieldOp v = 0x0 → w = v)
    (hn : fieldOp v = 0x5 ∨ fieldOp v = 0x8 ∨ fieldOp v = 0x9 → fieldN w = fieldN v)
    (hkk : fieldOp v = 0xE ∨ fieldOp v = 0xF → fieldKK w = fieldKK v) :
    (decode w).isOk = (decode v).isOk := by
  simp only [← BitVec.toNat_inj (x := fieldOp v)] at hword hn hkk
  unfold decode
  rw [hop]
  split
  case h_1 hv => rw [hword hv]
  case h_6 hv =>
    simp only [decodeOp5, hn (.inl hv)]
    split <;> rfl
  case h_9 hv =>
    simp only [decodeOp8, hn (.inr (.inl hv))]
    split <;> rfl
  case h_10 hv =>
    simp only [decodeOp9, hn (.inr (.inr hv))]
    split <;> rfl
  case h_15 hv =>
    simp only [decodeOpE, hkk (.inl hv)]
    split <;> rfl
  case h_16 =>
    have hv : (fieldOp v).toNat = 15 := by
      have := (fieldOp v).isLt
      grind
    simp only [decodeOpF, hkk (.inr hv)]
    split <;> rfl
  all_goals rfl

/-- The mask of a row of a family that tests a second key keeps that key. -/
theorem isOk_decode_of_matchesWord {r : OpcodeRow} {w : Word} (hr : r ∈ opcodeTable)
    (h : r.matchesWord w = true) : (decode w).isOk = true := by
  have hrows : ∀ r ∈ opcodeTable, (decode r.pattern).isOk = true ∧
      (fieldOp r.pattern = 0x0 → r.mask = BitVec.allOnes 16) ∧
      (fieldOp r.pattern = 0x5 ∨ fieldOp r.pattern = 0x8 ∨ fieldOp r.pattern = 0x9 →
        fieldN r.mask = BitVec.allOnes 4) ∧
      (fieldOp r.pattern = 0xE ∨ fieldOp r.pattern = 0xF →
        fieldKK r.mask = BitVec.allOnes 8) := by decide
  obtain ⟨hok, hword, hn, hkk⟩ := hrows r hr
  rw [← hok]
  refine isOk_decode_congr (fieldOp_eq_of_matchesWord hr h) (fun hop => ?_)
    (fun hop => fieldN_eq_of_matchesWord (hn hop) h) (fun hop => fieldKK_eq_of_matchesWord (hkk hop) h)
  rw [← and_mask_eq_pattern h, hword hop, BitVec.and_allOnes]

/-- A rejected word is reported as it is. -/
theorem eq_of_decode_eq_error {w v : Word} (h : decode w = .error (.unrecognizedInstruction v)) :
    v = w := by
  unfold decode at h
  split at h
  case h_1 =>
    unfold decodeOp0 at h
    grind
  case h_6 | h_9 | h_10 | h_15 | h_16 =>
    grind [decodeOp5_eq, decodeOp8_eq, decodeOp9_eq, decodeOpE_eq, decodeOpF_eq]
  all_goals cases h

/-- The word of an instruction matches the instruction's row, which is in the table. -/
theorem row_mem_and_matchesWord_encode (i : Instr) :
    i.row ∈ opcodeTable ∧ i.row.matchesWord (encode i) = true := by
  suffices h : Laws.TableRow.Statement i from ⟨h.2, h.1⟩
  cases i
  case cls => exact Laws.TableRow.cls
  case ret => exact Laws.TableRow.ret
  case jp => exact Laws.TableRow.jp _
  case call => exact Laws.TableRow.call _
  case seImm => exact Laws.TableRow.seImm _ _
  case sneImm => exact Laws.TableRow.sneImm _ _
  case seReg => exact Laws.TableRow.seReg _ _
  case ldImm => exact Laws.TableRow.ldImm _ _
  case addImm => exact Laws.TableRow.addImm _ _
  case ldReg => exact Laws.TableRow.ldReg _ _
  case or => exact Laws.TableRow.or _ _
  case and => exact Laws.TableRow.and _ _
  case xor => exact Laws.TableRow.xor _ _
  case addReg => exact Laws.TableRow.addReg _ _
  case sub => exact Laws.TableRow.sub _ _
  case shr => exact Laws.TableRow.shr _ _
  case subn => exact Laws.TableRow.subn _ _
  case shl => exact Laws.TableRow.shl _ _
  case sneReg => exact Laws.TableRow.sneReg _ _
  case ldI => exact Laws.TableRow.ldI _
  case jpV0 => exact Laws.TableRow.jpV0 _
  case rnd => exact Laws.TableRow.rnd _ _
  case drw => exact Laws.TableRow.drw _ _ _
  case skp => exact Laws.TableRow.skp _
  case sknp => exact Laws.TableRow.sknp _
  case ldVxDt => exact Laws.TableRow.ldVxDt _
  case ldVxK => exact Laws.TableRow.ldVxK _
  case ldDtVx => exact Laws.TableRow.ldDtVx _
  case ldStVx => exact Laws.TableRow.ldStVx _
  case addI => exact Laws.TableRow.addI _
  case ldF => exact Laws.TableRow.ldF _
  case ldB => exact Laws.TableRow.ldB _
  case ldMemVx => exact Laws.TableRow.ldMemVx _
  case ldVxMem => exact Laws.TableRow.ldVxMem _

/-- Two rows that match one word agree on the bits that both masks keep, and no two rows of the table do. -/
theorem row_unique {r q : OpcodeRow} {w : Word} (hr : r ∈ opcodeTable) (hq : q ∈ opcodeTable)
    (hrw : r.matchesWord w = true) (hqw : q.matchesWord w = true) : r = q := by
  have hrows : ∀ r ∈ opcodeTable, ∀ q ∈ opcodeTable,
      r.pattern &&& q.mask = q.pattern &&& r.mask → r = q := by decide
  refine hrows r hr q hq ?_
  rw [← and_mask_eq_pattern hrw, ← and_mask_eq_pattern hqw, BitVec.and_assoc, BitVec.and_assoc,
    BitVec.and_comm r.mask]

/-- Settles O4: a recognized word is the encoding of its instruction, which matches its row; a word that
matches a row is recognized; and the rows exclude each other. -/
theorem eachWordMatchesAtMostOneRow : Obligations.EachWordMatchesAtMostOneRow := by
  unfold Obligations.EachWordMatchesAtMostOneRow
  refine ⟨fun w i h => ?recognized, fun w v h => ⟨eq_of_decode_eq_error h, fun r hr => ?rejected⟩,
    fun w r hr q hq => row_unique hr hq⟩
  case recognized =>
    rw [← encode_of_decode h]
    exact row_mem_and_matchesWord_encode i
  case rejected =>
    by_contra hmatch
    have hok := isOk_decode_of_matchesWord hr (Bool.eq_true_of_not_eq_false hmatch)
    rw [h] at hok
    cases hok

/-- Settles O1: each of the words is evaluated. -/
theorem sampleWordsDecodeRight : Obligations.SampleWordsDecodeRight := by
  unfold Obligations.SampleWordsDecodeRight
  decide

end Sys2Proof
end

section
/-! How frames fit together: widening the lists, and one change after another. -/

namespace Sys2Proof.Machine

theorem Part.same.trans {p : Part} {s t u : State} (h : Part.same p s t) (k : Part.same p t u) :
    Part.same p s u := by
  cases p
  case stack =>
    obtain ⟨hsp, hstack⟩ := h
    obtain ⟨ksp, kstack⟩ := k
    exact ⟨ksp.trans hsp, fun j => (kstack j).trans (hstack j)⟩
  case display => exact fun px py => (k px py).trans (h px py)
  all_goals exact Eq.trans k h

theorem Frame.mono {regs regs' : List RegIdx} {addrs addrs' : List Nat} {parts parts' : List Part}
    {s t : State} (h : Frame regs addrs parts s t) (hregs : regs ⊆ regs') (haddrs : addrs ⊆ addrs')
    (hparts : parts ⊆ parts') : Frame regs' addrs' parts' s t := by
  obtain ⟨hv, hmem, hpart, hrest⟩ := h
  exact ⟨fun r hr => hv r fun hin => hr (hregs hin), fun a ha => hmem a fun hin => ha (haddrs hin),
    fun p hp => hpart p fun hin => hp (hparts hin), hrest⟩

theorem Frame.mono_parts {regs : List RegIdx} {addrs : List Nat} {parts parts' : List Part} {s t : State}
    (h : Frame regs addrs parts s t) (hparts : parts ⊆ parts') : Frame regs addrs parts' s t :=
  h.mono (List.Subset.refl _) (List.Subset.refl _) hparts

/-- Two changes, one after the other, reach what either of them reaches. -/
theorem Frame.comp {regs regs' : List RegIdx} {addrs addrs' : List Nat} {parts parts' : List Part}
    {s t u : State} (h : Frame regs addrs parts s t) (k : Frame regs' addrs' parts' t u) :
    Frame (regs ++ regs') (addrs ++ addrs') (parts ++ parts') s u := by
  obtain ⟨hv, hmem, hpart, hkey, hparams⟩ := h
  obtain ⟨kv, kmem, kpart, kkey, kparams⟩ := k
  refine ⟨fun r hr => ?regs, fun a ha => ?bytes, fun p hp => ?parts,
    fun j => (kkey j).trans (hkey j), kparams.trans hparams⟩
  case regs =>
    rw [List.mem_append, not_or] at hr
    exact (kv r hr.2).trans (hv r hr.1)
  case bytes =>
    rw [List.mem_append, not_or] at ha
    exact (kmem a ha.2).trans (hmem a ha.1)
  case parts =>
    rw [List.mem_append, not_or] at hp
    exact (hpart p hp.1).trans (kpart p hp.2)

/-- The frame of a change that writes neither registers nor memory: each part is listed, or its fields hold
the same. -/
theorem frame_of_fields {s t : State} {parts : List Part} (hv : t.v = s.v := by rfl)
    (hmem : t.mem = s.mem := by rfl) (hkey : t.key = s.key := by rfl)
    (hparams : t.params = s.params := by rfl) (hindex : .index ∈ parts ∨ t.i = s.i := by simp)
    (hpc : .pc ∈ parts ∨ t.pc = s.pc := by simp)
    (hstack : .stack ∈ parts ∨ t.sp = s.sp ∧ t.stack = s.stack := by simp)
    (hdt : .dt ∈ parts ∨ t.dt = s.dt := by simp) (hst : .st ∈ parts ∨ t.st = s.st := by simp)
    (hdisplay : .display ∈ parts ∨ t.disp = s.disp := by simp)
    (hlatch : .latch ∈ parts ∨ t.latch = s.latch := by simp)
    (hmode : .mode ∈ parts ∨ t.mode = s.mode := by simp)
    (hdraws : .draws ∈ parts ∨ t.draws = s.draws := by simp)
    (hdiag : .diag ∈ parts ∨ t.diag = s.diag := by simp) : Frame [] [] parts s t := by
  refine ⟨fun r _ => State.getV_congr hv r, fun a _ => by rw [hmem], fun p hp => ?parts,
    fun k => by simp only [State.getKey, hkey], hparams⟩
  case parts =>
    cases p
    case index => exact hindex.resolve_left hp
    case pc => exact hpc.resolve_left hp
    case stack =>
      obtain ⟨hsp, hentries⟩ := hstack.resolve_left hp
      exact ⟨hsp, fun j => by simp only [State.getStack, hentries]⟩
    case dt => exact hdt.resolve_left hp
    case st => exact hst.resolve_left hp
    case display => exact fun px py => by simp only [State.pixel, hdisplay.resolve_left hp]
    case latch => exact hlatch.resolve_left hp
    case mode => exact hmode.resolve_left hp
    case draws => exact hdraws.resolve_left hp
    case diag => exact hdiag.resolve_left hp

theorem frame_of_stack (s : State) (entries : Vector Word 16) (n : Fin 17) :
    Frame [] [] [.stack] s { s with stack := entries, sp := n } := frame_of_fields

theorem frame_of_latch (s : State) (l : Option KeyIdx) :
    Frame [] [] [.latch] s { s with latch := l } := frame_of_fields

theorem frame_of_draws (s : State) (n : Nat) : Frame [] [] [.draws] s { s with draws := n } :=
  frame_of_fields

theorem frame_takeFault (s : State) (c : FaultCause) : Frame [] [] [.mode] s (s.takeFault c) :=
  frame_of_fields

theorem frame_report (s : State) (c : Condition) (a w : Word) :
    Frame [] [] [.diag] s (s.report c a w) := frame_of_fields

theorem frame_tick (s : State) : Frame [] [] [.dt, .st] s s.tick :=
  frame_of_timers s _ _ (.inl (by decide)) (.inl (by decide))

/-- A result in Vx and then a flag in VF. -/
theorem frame_setResultFlag (s : State) (x : RegIdx) (b : Byte) (f : Bool) :
    Frame [x, vf] [] [] s (s.setResultFlag x b f) :=
  (frame_setV s x b).comp (frame_setV _ vf (flagByte f))

end Sys2Proof.Machine
end

section
/-! The call stack and JP (41_control_flow.md R77 to R79; 10_state.md R27, R28). -/

namespace Sys2Proof.Machine

theorem frame_setPc_of_stack (s : State) (entries : Vector Word 16) (n : Fin 17) (w : Word) :
    Frame [] [] [.pc, .stack] s (State.setPc { s with stack := entries, sp := n } w) :=
  ((frame_of_stack s entries n).comp (frame_setPc _ w)).mono_parts (by decide)

/-- All that RET can do. -/
theorem exec_ret_cases (s : State) :
    (s.params.stackMode = .fault ∧ s.sp.val = 0 ∧ exec .ret s = .next (s.takeFault .stackUnderflow)) ∨
    ∃ (j : Fin 16) (n : Fin 17),
      exec .ret s = .next (State.setPc { s with sp := n } (s.getStack j)) ∧ j.val = n.val ∧
      ((s.params.stackMode = .fault ∧ s.sp.val ≠ 0 ∧ n.val = s.sp.val - 1) ∨
       (s.params.stackMode = .wrap ∧ n.val = (s.sp.val + 15) % 16)) := by
  rcases s.pop_cases with ⟨hmode, hsp, hpop⟩ | ⟨j, n, hpop, hrest⟩
  · exact .inl ⟨hmode, hsp, by simp only [exec, execRet, hpop]; rfl⟩
  · exact .inr ⟨j, n, by simp only [exec, execRet, hpop]; rfl, hrest⟩

/-- All that CALL can do. -/
theorem exec_call_cases (nnn : Addr12) (s : State) :
    (s.params.stackMode = .fault ∧ s.sp.val = 16 ∧
      exec (.call nnn) s = .next (s.takeFault .stackOverflow)) ∨
    ∃ (j : Fin 16) (n : Fin 17),
      exec (.call nnn) s = .next (State.setPc { s.setStack j s.pc with sp := n } (zext16 nnn)) ∧
      ((s.params.stackMode = .fault ∧ j.val = s.sp.val ∧ n.val = s.sp.val + 1) ∨
       (s.params.stackMode = .wrap ∧ j.val = s.sp.val % 16 ∧ n.val = (s.sp.val + 1) % 16)) := by
  rcases s.push_cases s.pc with ⟨hmode, hsp, hpush⟩ | ⟨j, n, hpush, hrest⟩
  · exact .inl ⟨hmode, hsp, by simp only [exec, execCall, hpush]; rfl⟩
  · exact .inr ⟨j, n, by simp only [exec, execCall, hpush]; rfl, hrest⟩

/-- Settles O16: unless it underflows, RET moves SP down and takes the entry there. -/
theorem returnPopsTheNewestEntry : Obligations.ReturnPopsTheNewestEntry := by
  unfold Obligations.ReturnPopsTheNewestEntry
  intro s hsome
  rcases exec_ret_cases s with ⟨hmode, hsp, -⟩ | ⟨j, n, hexec, hj, hn⟩
  · exact absurd hsp (hsome hmode)
  · refine ⟨_, hexec, ?sp, ⟨j, hj, rfl⟩, fun _ => rfl, ?frame⟩
    case sp =>
      rcases hn with ⟨hmode, -, hn⟩ | ⟨hmode, hn⟩
      · rw [if_neg (by simp [hmode])]
        exact hn
      · rw [if_pos hmode]
        exact hn
    case frame => exact frame_setPc_of_stack s s.stack n _

/-- Settles O17: unless it overflows, CALL writes PC to the entry at SP and moves SP up. -/
theorem callStacksTheReturnAddress : Obligations.CallStacksTheReturnAddress := by
  unfold Obligations.CallStacksTheReturnAddress
  intro nnn s hroom
  rcases exec_call_cases nnn s with ⟨hmode, hsp, -⟩ | ⟨j, n, hexec, hjn⟩
  · have := hroom hmode
    omega
  · refine ⟨_, hexec, toNat_zext16 nnn, ?sp, ⟨j, ?entry, ?same, fun k hk => ?others⟩, ?frame⟩
    case sp =>
      rcases hjn with ⟨hmode, -, hn⟩ | ⟨hmode, -, hn⟩
      · rw [if_neg (by simp [hmode])]
        exact hn
      · rw [if_pos hmode]
        exact hn
    case entry =>
      rcases hjn with ⟨hmode, hj, -⟩ | ⟨-, hj, -⟩
      · rw [hj, Nat.mod_eq_of_lt (hroom hmode)]
      · exact hj
    case same => exact (s.getStack_setStack j j s.pc).trans (if_pos rfl)
    case others => exact (s.getStack_setStack j k s.pc).trans (if_neg hk)
    case frame => exact frame_setPc_of_stack s _ n _

/-- Settles O18: at the two ends of the stack the other outcome of each instruction is excluded. -/
theorem stackFaultsHaltTheCore : Obligations.StackFaultsHaltTheCore := by
  unfold Obligations.StackFaultsHaltTheCore
  refine ⟨fun s hmode hsp => ?ret, fun nnn s hmode hsp => ?call⟩
  case ret =>
    rcases exec_ret_cases s with ⟨-, -, hexec⟩ | ⟨-, -, -, -, ⟨-, hne, -⟩ | ⟨hwrap, -⟩⟩
    · exact hexec
    · exact absurd hsp hne
    · simp [hmode] at hwrap
  case call =>
    rcases exec_call_cases nnn s with ⟨-, -, hexec⟩ | ⟨j, -, -, ⟨-, hj, -⟩ | ⟨hwrap, -⟩⟩
    · exact hexec
    · omega
    · simp [hmode] at hwrap

/-- Settles O19: the call leaves SP above 0 in the Fault mode, so that the return pops, and one less than
the call's SP is the SP before it, where the old PC stands. -/
theorem returnUndoesCall : Obligations.ReturnUndoesCall := by
  unfold Obligations.ReturnUndoesCall
  intro nnn s hsp
  obtain ⟨t, hcall, -, htsp, ⟨j, hj, hentry, -⟩, -, -, -, -, htparams⟩ :=
    callStacksTheReturnAddress nnn s fun _ => hsp
  refine ⟨t, hcall, fun u husp hustack huparams => ?_⟩
  have hmode : u.params.stackMode = s.params.stackMode := by rw [huparams, htparams]
  have hpops : u.params.stackMode = .fault → u.sp.val ≠ 0 := fun hfault => by
    rw [hmode] at hfault
    rw [husp, htsp, if_neg (by simp [hfault])]
    omega
  obtain ⟨r, hret, hrsp, ⟨k, hk, hrpc⟩, -⟩ := returnPopsTheNewestEntry u hpops
  have hback : r.sp.val = s.sp.val := by
    rw [hrsp, husp, htsp, hmode]
    split <;> omega
  have hkj : k = j := Fin.ext (by rw [hk, hback, hj, Nat.mod_eq_of_lt hsp])
  exact ⟨r, hret, by rw [hrpc, hustack, hkj, hentry], Fin.ext hback⟩

theorem exec_jp (nnn : Addr12) (s : State) : exec (.jp nnn) s = .next (s.setPc (zext16 nnn)) := rfl

/-- Settles O20: primary nibble 1 alone selects JP, which writes PC. -/
theorem jumpGoesToItsTarget : Obligations.JumpGoesToItsTarget := by
  unfold Obligations.JumpGoesToItsTarget
  refine fun nnn => ⟨?decodes, fun s => ⟨_, exec_jp nnn s, toNat_zext16 nnn, frame_setPc s _⟩⟩
  case decodes => simp [decode]

end Sys2Proof.Machine
end

section
/-! Copies, logic and arithmetic of registers, and the random byte (42_alu.md R88 to R97). -/

namespace Sys2Proof.Machine

theorem exec_ldReg (x y : RegIdx) (s : State) : exec (.ldReg x y) s = .next (s.setV x (s.getV y)) := rfl

theorem exec_or (x y : RegIdx) (s : State) :
    exec (.or x y) s = .next (s.setV x (s.getV x ||| s.getV y)) := rfl

theorem exec_and (x y : RegIdx) (s : State) :
    exec (.and x y) s = .next (s.setV x (s.getV x &&& s.getV y)) := rfl

theorem exec_xor (x y : RegIdx) (s : State) :
    exec (.xor x y) s = .next (s.setV x (s.getV x ^^^ s.getV y)) := rfl

theorem exec_addReg (x y : RegIdx) (s : State) : exec (.addReg x y) s =
    .next (s.setResultFlag x (s.getV x + s.getV y) (carry8 (s.getV x) (s.getV y))) := rfl

theorem exec_sub (x y : RegIdx) (s : State) : exec (.sub x y) s =
    .next (s.setResultFlag x (s.getV x - s.getV y) (noBorrow (s.getV x) (s.getV y))) := rfl

theorem exec_subn (x y : RegIdx) (s : State) : exec (.subn x y) s =
    .next (s.setResultFlag x (s.getV y - s.getV x) (noBorrow (s.getV y) (s.getV x))) := rfl

theorem exec_shr (x y : RegIdx) (s : State) : exec (.shr x y) s =
    .next (s.setResultFlag x (s.getV x >>> 1) (oldBit0 (s.getV x))) := rfl

theorem exec_shl (x y : RegIdx) (s : State) : exec (.shl x y) s =
    .next (s.setResultFlag x (s.getV x <<< 1) (oldBit7 (s.getV x))) := rfl

theorem exec_rnd (x : RegIdx) (kk : Byte) (s : State) : exec (.rnd x kk) s =
    .next (State.setV { s with draws := s.draws + 1 } x (Config.randomByte s.draws &&& kk)) := rfl

theorem exec_addI (x : RegIdx) (s : State) : exec (.addI x) s =
    .next ((s.setI (s.i + byteToWord (s.getV x))).setV vf (flagByte (carry16 s.i (s.getV x)))) := rfl

/-- All that an instruction does that writes one register, for a property of the byte written. -/
theorem exec_write {i : Instr} {x : RegIdx} {s : State} {b : Byte} {P : Byte → Prop}
    (hexec : exec i s = .next (s.setV x b)) (hb : P b) :
    ∃ t, exec i s = .next t ∧ P (t.getV x) ∧ Frame [x] [] [] s t :=
  ⟨_, hexec, by rwa [State.getV_setV_same], frame_setV s x b⟩

/-- Settles O27: each word's low nibble selects its instruction, which writes one byte to Vx. -/
theorem copyAndLogicWriteVxAlone : Obligations.CopyAndLogicWriteVxAlone := by
  unfold Obligations.CopyAndLogicWriteVxAlone
  refine fun x y => ⟨?copy, ?disj, ?conj, ?excl, fun s =>
    ⟨exec_write (P := (· = s.getV y)) (exec_ldReg x y s) rfl,
      exec_write (P := fun b => ∀ k, b.getLsbD k = ((s.getV x).getLsbD k || (s.getV y).getLsbD k))
        (exec_or x y s) fun _ => BitVec.getLsbD_or,
      exec_write (P := fun b => ∀ k, b.getLsbD k = ((s.getV x).getLsbD k && (s.getV y).getLsbD k))
        (exec_and x y s) fun _ => BitVec.getLsbD_and,
      exec_write (P := fun b => ∀ k, b.getLsbD k = ((s.getV x).getLsbD k != (s.getV y).getLsbD k))
        (exec_xor x y s) fun _ => BitVec.getLsbD_xor⟩⟩
  case copy | disj | conj | excl => simp [decode, decodeOp8_eq]

theorem flagByte_decide (p : Prop) [Decidable p] : flagByte (decide p) = if p then 1 else 0 := by
  simp [flagByte]

/-- All that an instruction with a result and a flag does, for a property of each. -/
theorem exec_resultFlag {i : Instr} {x : RegIdx} {s : State} {b : Byte} {f : Bool} {P Q : Byte → Prop}
    (hexec : exec i s = .next (s.setResultFlag x b f)) (hb : P b) (hf : Q (flagByte f)) :
    ∃ t, exec i s = .next t ∧ (x ≠ vf → P (t.getV x)) ∧ Q (t.getV vf) ∧ Frame [x, vf] [] [] s t := by
  refine ⟨_, hexec, fun hx => ?_, ?_, frame_setResultFlag s x b f⟩
  · rwa [State.getV_setResultFlag, if_neg hx, if_pos rfl]
  · rwa [State.getV_setResultFlag, if_pos rfl]

/-- Settles O28: the sum and its carry. -/
theorem addSetsCarry : Obligations.AddSetsCarry := by
  unfold Obligations.AddSetsCarry
  exact fun x y s => exec_resultFlag
    (P := fun b => b.toNat = ((s.getV x).toNat + (s.getV y).toNat) % 256)
    (Q := (· = if (s.getV x).toNat + (s.getV y).toNat > 255 then 1 else 0))
    (exec_addReg x y s) (BitVec.toNat_add _ _) (flagByte_decide _)

theorem toNat_sub_byte (a b : Byte) : (a - b).toNat = (a.toNat + 256 - b.toNat) % 256 := by
  have hb := b.isLt
  rw [BitVec.toNat_sub]
  omega

/-- Settles O29: SUB and SUBN are one subtraction with the operands in either order. -/
theorem subtractionsSetStrictNoBorrow : Obligations.SubtractionsSetStrictNoBorrow := by
  unfold Obligations.SubtractionsSetStrictNoBorrow
  exact fun x y s =>
    ⟨exec_resultFlag
        (P := fun b => b.toNat = ((s.getV x).toNat + 256 - (s.getV y).toNat) % 256)
        (Q := (· = if (s.getV x).toNat > (s.getV y).toNat then 1 else 0))
        (exec_sub x y s) (toNat_sub_byte _ _) (flagByte_decide _),
      exec_resultFlag
        (P := fun b => b.toNat = ((s.getV y).toNat + 256 - (s.getV x).toNat) % 256)
        (Q := (· = if (s.getV y).toNat > (s.getV x).toNat then 1 else 0))
        (exec_subn x y s) (toNat_sub_byte _ _) (flagByte_decide _)⟩

theorem toNat_flagByte (f : Bool) : (flagByte f).toNat = f.toNat := by cases f <;> rfl

theorem toNat_oldBit0 (a : Byte) : (oldBit0 a).toNat = a.toNat % 2 := by
  rw [oldBit0, BitVec.getLsbD, Nat.toNat_testBit, Nat.pow_zero, Nat.div_one]

theorem toNat_oldBit7 (a : Byte) : (oldBit7 a).toNat = a.toNat / 128 := by
  have ha := a.isLt
  rw [oldBit7, BitVec.getLsbD, Nat.toNat_testBit]
  omega

theorem toNat_shiftRight_one (a : Byte) : (a >>> 1).toNat = a.toNat / 2 := by
  rw [BitVec.toNat_ushiftRight, Nat.shiftRight_eq_div_pow, Nat.pow_one]

theorem toNat_shiftLeft_one (a : Byte) : (a <<< 1).toNat = a.toNat * 2 % 256 := by
  rw [BitVec.toNat_shiftLeft, Nat.shiftLeft_eq, Nat.pow_one]

/-- Settles O30: the shifted bytes are half and twice the old one, and the flags its lowest and highest
bit. -/
theorem shiftsMoveTheLostBitToVF : Obligations.ShiftsMoveTheLostBitToVF := by
  unfold Obligations.ShiftsMoveTheLostBitToVF
  exact fun x y s =>
    ⟨exec_resultFlag (P := fun b => b.toNat = (s.getV x).toNat / 2)
        (Q := fun b => b.toNat = (s.getV x).toNat % 2)
        (exec_shr x y s) (toNat_shiftRight_one _) ((toNat_flagByte _).trans (toNat_oldBit0 _)),
      exec_resultFlag (P := fun b => b.toNat = (s.getV x).toNat * 2 % 256)
        (Q := fun b => b.toNat = (s.getV x).toNat / 128)
        (exec_shl x y s) (toNat_shiftLeft_one _) ((toNat_flagByte _).trans (toNat_oldBit7 _))⟩

theorem frame_rnd (s : State) (n : Nat) (x : RegIdx) (b : Byte) :
    Frame [x] [] [.draws] s (State.setV { s with draws := n } x b) :=
  (frame_of_draws s n).comp (frame_setV _ x b)

/-- Settles O31: the byte is drawn before the mask is applied, whatever the mask is. -/
theorem randomByteIsMasked : Obligations.RandomByteIsMasked := by
  unfold Obligations.RandomByteIsMasked
  refine fun x kk s => ⟨_, exec_rnd x kk s, fun k => ?bits, rfl, frame_rnd s _ x _⟩
  case bits => rw [State.getV_setV_same, BitVec.getLsbD_and, Bool.and_comm]

theorem toNat_add_byteToWord (i : Word) (b : Byte) :
    (i + byteToWord b).toNat = (i.toNat + b.toNat) % 65536 := by
  rw [BitVec.toNat_add, byteToWord, BitVec.toNat_setWidth_of_le (by decide)]

theorem frame_addI (s : State) (w : Word) (f : Bool) :
    Frame [vf] [] [.index] s ((s.setI w).setV vf (flagByte f)) :=
  (frame_setI s w).comp (frame_setV _ vf _)

/-- Settles O33: I is written before VF, and the carry is that of the old I. -/
theorem addToIndexSetsSixteenBitCarry : Obligations.AddToIndexSetsSixteenBitCarry := by
  unfold Obligations.AddToIndexSetsSixteenBitCarry
  refine fun x s => ⟨_, exec_addI x s, toNat_add_byteToWord s.i _, ?carry, frame_addI s _ _⟩
  case carry =>
    rw [State.getV_setV_same]
    exact flagByte_decide _

end Sys2Proof.Machine
end

section
/-! The transfers between memory and the registers V0 to Vx (43_index_memory.md R103, R104). -/

namespace Sys2Proof.Machine

theorem exec_ldMemVx (x : RegIdx) (s : State) : exec (.ldMemVx x) s =
    .next ((s.memWrite (s.indexAddr 0) (s.regsUpTo x)).advanceIndex x) := rfl

theorem exec_ldVxMem (x : RegIdx) (s : State) :
    exec (.ldVxMem x) s = .next ((s.loadRegs x).advanceIndex x) := rfl

theorem frame_advanceIndex (s : State) (x : RegIdx) : Frame [] [] [.index] s (s.advanceIndex x) := by
  rw [State.advanceIndex_eq]
  exact frame_setI s _

theorem State.toNat_advanceIndex_i (s : State) (x : RegIdx) : (s.advanceIndex x).i.toNat =
    if s.params.indexAdvance = true then (s.i.toNat + x.toNat + 1) % 65536 else s.i.toNat := by
  rw [State.advanceIndex_eq]
  split
  · rw [BitVec.toNat_add, BitVec.toNat_add, BitVec.toNat_setWidth_of_le (by decide), Nat.mod_add_mod]
    rfl
  · rfl

theorem length_regsUpTo (s : State) (x : RegIdx) : (s.regsUpTo x).length = x.toNat + 1 := by
  have hx := x.isLt
  simp only [State.regsUpTo, List.length_take, Vector.length_toList]
  omega

theorem regsUpTo_getElem? (s : State) {x r : RegIdx} (hr : r.toNat ≤ x.toNat) :
    (s.regsUpTo x)[r.toNat]? = some (s.getV r) := by
  have hlt : r.toNat < 16 := r.isLt
  simp [State.regsUpTo, State.getV, Nat.lt_succ_of_le hr, hlt]

theorem frame_ldMemVx (s : State) (x : RegIdx) :
    Frame [] ((List.range (x.toNat + 1)).map fun k => maskAddr (s.indexAddr k)) [.index] s
      ((s.memWrite (s.indexAddr 0) (s.regsUpTo x)).advanceIndex x) := by
  have hstore := frame_memWrite_index s (s.regsUpTo x)
  rw [length_regsUpTo] at hstore
  refine (hstore.comp (frame_advanceIndex _ x)).mono (List.Subset.refl _) ?_ (List.Subset.refl _)
  rw [List.append_nil]
  exact List.Subset.refl _

/-- Settles O36: the registers are a run of at most 16 bytes from I on, each read back at its place. -/
theorem registerStoreWritesTheRange : Obligations.RegisterStoreWritesTheRange := by
  unfold Obligations.RegisterStoreWritesTheRange
  refine fun x s => ⟨_, exec_ldMemVx x s, fun r hr => ?stored, State.toNat_advanceIndex_i _ x,
    frame_ldMemVx s x⟩
  case stored =>
    have hlen : (s.regsUpTo x).length ≤ 4096 := by
      have hx := x.isLt
      rw [length_regsUpTo]
      omega
    rw [State.advanceIndex_eq]
    exact read_memWrite_index s hlen (regsUpTo_getElem? s hr)

theorem mem_regRange {r x : RegIdx} : r ∈ regRange x ↔ r.toNat ≤ x.toNat := by
  have hx := x.isLt
  simp only [regRange, List.mem_map, List.mem_range, ← BitVec.toNat_inj, BitVec.toNat_ofNat]
  exact ⟨fun ⟨k, hk, hkr⟩ => by omega, fun hr => ⟨r.toNat, by omega, Nat.mod_eq_of_lt r.isLt⟩⟩

/-- The writes `V[k] <- f k` for k below n. -/
theorem getV_foldl_setV (f : Nat → Byte) (s : State) (r : RegIdx) {n : Nat} (hn : n ≤ 16) :
    ((List.range n).foldl (fun t k => t.setV (BitVec.ofNat 4 k) (f k)) s).getV r =
      if r.toNat < n then f r.toNat else s.getV r := by
  induction n with
  | zero => rfl
  | succ n ih =>
    have hnew : r = BitVec.ofNat 4 n ↔ r.toNat = n := by
      rw [← BitVec.toNat_inj, BitVec.toNat_ofNat, Nat.mod_eq_of_lt hn]
    rw [List.range_succ, List.foldl_append, List.foldl_cons, List.foldl_nil, State.getV_setV,
      ih (Nat.le_of_succ_le hn)]
    by_cases hr : r.toNat = n
    · rw [if_pos (hnew.mpr hr), if_pos (by omega), hr]
    · rw [if_neg (mt hnew.mp hr)]
      exact if_congr (by omega) rfl rfl

theorem State.getV_loadRegs (s : State) (x r : RegIdx) : (s.loadRegs x).getV r =
    if r.toNat ≤ x.toNat then s.mem.read (s.indexAddr r.toNat) else s.getV r := by
  have hx := x.isLt
  rw [State.loadRegs, getV_foldl_setV (fun k => s.mem.read (s.indexAddr k)) s r (by omega)]
  simp only [Nat.lt_succ_iff]

theorem frame_loadRegs (s : State) (x : RegIdx) : Frame (regRange x) [] [] s (s.loadRegs x) := by
  refine ⟨fun r hr => ?regs, fun a _ => ?bytes, fun p _ => ?parts, fun k => ?keys, ?params⟩
  case regs => rw [State.getV_loadRegs, if_neg (mt mem_regRange.mpr hr)]
  case parts =>
    rw [State.loadRegs_eq]
    cases p
    case stack => exact ⟨rfl, fun _ => rfl⟩
    case display => exact fun _ _ => rfl
    all_goals rfl
  case bytes | params => rw [State.loadRegs_eq]
  case keys =>
    rw [State.loadRegs_eq]
    rfl

theorem frame_ldVxMem (s : State) (x : RegIdx) :
    Frame (regRange x) [] [.index] s ((s.loadRegs x).advanceIndex x) := by
  refine ((frame_loadRegs s x).comp (frame_advanceIndex _ x)).mono ?_
    (List.Subset.refl _) (List.Subset.refl _)
  rw [List.append_nil]
  exact List.Subset.refl _

/-- Settles O37: the load writes each register up to Vx from its place, and the index advance that follows
reads the I and the parameters that the load left. -/
theorem registerLoadReadsTheRange : Obligations.RegisterLoadReadsTheRange := by
  unfold Obligations.RegisterLoadReadsTheRange
  refine fun x s => ⟨_, exec_ldVxMem x s, fun r hr => ?loaded, ?index, frame_ldVxMem s x⟩
  case loaded =>
    rw [State.getV_congr (s := s.loadRegs x) (by rw [State.advanceIndex_eq]), State.getV_loadRegs,
      if_pos hr]
  case index =>
    rw [State.toNat_advanceIndex_i, State.loadRegs_eq]

/-- Settles O38: the load reads each register from the address to which the store wrote it. -/
theorem loadAfterStoreRestoresRegisters : Obligations.LoadAfterStoreRestoresRegisters := by
  unfold Obligations.LoadAfterStoreRestoresRegisters
  intro x s
  obtain ⟨t, hstore, hstored, -⟩ := registerStoreWritesTheRange x s
  refine ⟨t, hstore, fun u hmem hi => ?_⟩
  obtain ⟨r, hload, hloaded, -⟩ := registerLoadReadsTheRange x u
  refine ⟨r, hload, fun q hq => ?_⟩
  rw [hloaded q hq, hmem, State.indexAddr, hi]
  exact hstored q hq

end Sys2Proof.Machine
end

section
/-! The key instructions (44_timers_input.md R105, R106, R108) and the key transition (10_state.md R33). -/

namespace Sys2Proof.Machine

theorem exec_skp (x : RegIdx) (s : State) : exec (.skp x) s = .next (s.skipOnKey x true) := rfl

theorem exec_sknp (x : RegIdx) (s : State) : exec (.sknp x) s = .next (s.skipOnKey x false) := rfl

theorem State.skipOnKey_of_key {s : State} {x : RegIdx} {k : KeyIdx} (h : (s.getV x).toNat = k.val)
    (wanted : Bool) : s.skipOnKey x wanted = s.skipIf (s.getKey k == wanted) := by
  rw [State.skipOnKey, keyIndex_eq_some.mpr h]

theorem State.skipOnKey_of_range {s : State} {x : RegIdx} (h : 15 < (s.getV x).toNat) (wanted : Bool) :
    s.skipOnKey x wanted = s.takeFault .keyIndexRange := by
  rw [State.skipOnKey, keyIndex_eq_none.mpr h]

/-- All that SKP and SKNP can do. -/
theorem State.skipOnKey_cases (s : State) (x : RegIdx) (wanted : Bool) :
    (∃ k : KeyIdx, (s.getV x).toNat = k.val ∧
      s.skipOnKey x wanted = s.skipIf (s.getKey k == wanted)) ∨
    (15 < (s.getV x).toNat ∧ s.skipOnKey x wanted = s.takeFault .keyIndexRange) := by
  rcases Nat.lt_or_ge 15 (s.getV x).toNat with h | h
  · exact .inr ⟨h, s.skipOnKey_of_range h wanted⟩
  · exact .inl ⟨⟨_, Nat.lt_succ_of_le h⟩, rfl, s.skipOnKey_of_key rfl wanted⟩

/-- What either instruction does when its register names a key. -/
theorem exec_skipOnKey {i : Instr} {x : RegIdx} {s : State} {k : KeyIdx} {wanted : Bool}
    (hexec : exec i s = .next (s.skipOnKey x wanted)) (hk : (s.getV x).toNat = k.val) :
    ∃ t, exec i s = .next t ∧ t.pc = (if s.getKey k = wanted then s.pc + 2 else s.pc) ∧
      Frame [] [] [.pc] s t := by
  rw [s.skipOnKey_of_key hk] at hexec
  refine ⟨_, hexec, ?_, frame_skipIf s _⟩
  rw [State.skipIf_eq]
  simp only [beq_iff_eq]

/-- Settles O39: the two instructions want the two levels. -/
theorem keySkipsReadTheKeyLevel : Obligations.KeySkipsReadTheKeyLevel := by
  unfold Obligations.KeySkipsReadTheKeyLevel
  exact fun x s k hk => ⟨exec_skipOnKey (exec_skp x s) hk, exec_skipOnKey (exec_sknp x s) hk⟩

/-- Settles O40: a byte above 15 names no key, and the fault writes MODE alone. -/
theorem keyIndexOutOfRangeHalts : Obligations.KeyIndexOutOfRangeHalts := by
  unfold Obligations.KeyIndexOutOfRangeHalts
  intro x s h
  rw [exec_skp, exec_sknp, s.skipOnKey_of_range h, s.skipOnKey_of_range h, State.takeFault_eq]
  exact ⟨rfl, rfl⟩

theorem exec_ldVxK_of_some {s : State} {k : KeyIdx} (h : s.latch = some k) (x : RegIdx) :
    exec (.ldVxK x) s = .next (State.setV { s with latch := none } x (keyByte k)) := by
  simp only [exec, execLdVxK, State.takeLatch_fst, State.takeLatch_snd, h]

theorem exec_ldVxK_of_none {s : State} (h : s.latch = none) (x : RegIdx) :
    exec (.ldVxK x) s = .next (s.setPc (s.pc - 2)) := by
  have hlatch : s.takeLatch.2 = s := by rw [State.takeLatch_snd, ← h]
  simp only [exec, execLdVxK, State.takeLatch_fst, h, hlatch, State.fetchAddr]

theorem frame_takeKey (s : State) (x : RegIdx) (b : Byte) :
    Frame [x] [] [.latch] s (State.setV { s with latch := none } x b) :=
  (frame_of_latch s none).comp (frame_setV _ x b)

theorem toNat_keyByte (k : KeyIdx) : (keyByte k).toNat = k.val := by
  rw [keyByte, BitVec.toNat_ofNat]
  omega

/-- Settles O42: the latch is emptied before Vx is written, and PC is left behind the instruction. -/
theorem waitTakesALatchedKey : Obligations.WaitTakesALatchedKey := by
  unfold Obligations.WaitTakesALatchedKey
  refine fun x s k h => ⟨_, exec_ldVxK_of_some h x, ?key, rfl, frame_takeKey s x _⟩
  case key => rw [State.getV_setV_same, toNat_keyByte]

theorem getKey_setKeyState (k j : KeyIdx) (p : Bool) (s : State) :
    (setKeyState k p s).getKey j = if j = k then p else s.getKey j := by
  simp only [State.getKey, setKeyState, Vector.getElem_set, Fin.ext_iff, eq_comm (a := k.val)]

/-- Settles O55: the keypad and the latch are all that a key transition writes, and the latch is set on an
edge. -/
theorem keyTransitionSetsLevelAndLatch : Obligations.KeyTransitionSetsLevelAndLatch := by
  unfold Obligations.KeyTransitionSetsLevelAndLatch
  refine fun k p s => ⟨?level, fun j hj => ?others, ?latch, rfl⟩
  case level => rw [getKey_setKeyState, if_pos rfl]
  case others => rw [getKey_setKeyState, if_neg hj]
  case latch => simp only [setKeyState, Bool.and_eq_true, Bool.not_eq_true']

end Sys2Proof.Machine
end

section
/-! One cycle (30_encoding.md R60 to R62, R69; 60_exceptions.md R113, R121): the outcome of a step by what
it fetched. -/

namespace Sys2Proof.Machine

theorem step_of_halted {s : State} {c : FaultCause} {a : Word} (h : s.mode = .halted c a) :
    step s = .fault (.halted c a) := by
  rw [step, h]

theorem step_of_error {s : State} {e : DecodeWarning} (hmode : s.mode = .running)
    (h : decode s.fetch = .error e) : step s = .next s.unrecognizedCycle := by
  simp only [step, hmode, h]

theorem step_of_ok {i : Instr} {s t : State} (hmode : s.mode = .running)
    (h : decode s.fetch = .ok i) (hexec : exec i s.beginCycle = .next t) :
    step s = .next (endCycle i s t) := by
  simp only [step, hmode, h, hexec, finishCycle]

theorem endCycle_of_halted {i : Instr} {s t : State} {c : FaultCause} {a : Word}
    (h : t.mode = .halted c a) : endCycle i s t = t.report (.fatal c) a s.fetch := by
  rw [endCycle, h]

theorem endCycle_of_running {i : Instr} {s t : State} (h : t.mode = .running) : endCycle i s t =
    if isWaitKey i = true ∧ s.latch = none ∧ s.params.tickDuringWait = false then t else t.tick := by
  rcases endCycle_cases i s t with ⟨c, a, hhalted, -⟩ | ⟨-, hwait, hlatch, hsilent, hend⟩ |
    ⟨-, hticks, hend⟩
  · simp [h] at hhalted
  · rw [hend, if_pos ⟨hwait, hlatch, hsilent⟩]
  · rw [hend, if_neg hticks]

/-- Settles O6: the end of the cycle by the mode that the instruction left. -/
theorem stepRunsTheDecodedInstruction : Obligations.StepRunsTheDecodedInstruction := by
  unfold Obligations.StepRunsTheDecodedInstruction
  intro s t i hmode hdecode _ hexec
  rw [step_of_ok hmode hdecode hexec]
  split
  case h_1 c a hhalted => exact congrArg _ (endCycle_of_halted hhalted)
  case h_2 hrunning => exact congrArg _ (endCycle_of_running hrunning)

theorem frame_beginCycle (s : State) : Frame [] [] [.pc] s s.beginCycle := frame_setPc s _

theorem frame_unrecognizedCycle (s : State) :
    Frame [] [] [.pc, .dt, .st, .diag] s s.unrecognizedCycle :=
  (((frame_beginCycle s).comp (frame_report _ _ _ _)).comp (frame_tick _)).mono_parts
    (by decide)

/-- Settles O8: the cycle of an unrecognized word is the PC increment, the report and the tick. -/
theorem unrecognizedWordIsAReportedNoOp : Obligations.UnrecognizedWordIsAReportedNoOp := by
  unfold Obligations.UnrecognizedWordIsAReportedNoOp
  exact fun s w hmode h => ⟨_, step_of_error hmode h, rfl, rfl, tickByte_toNat s.dt,
    tickByte_toNat s.st, frame_unrecognizedCycle s⟩

/-- Settles O9: the step and the strobe look at MODE first, and a key transition does not look at it. -/
theorem haltedCoreTakesNoCycle : Obligations.HaltedCoreTakesNoCycle := by
  unfold Obligations.HaltedCoreTakesNoCycle
  refine fun s c a h => ⟨step_of_halted h, ?strobe, fun k p => ⟨_, rfl, ?level, h, rfl, rfl, rfl, rfl⟩⟩
  case strobe => simp only [move, strobe, h]
  case level => rw [getKey_setKeyState, if_pos rfl]

/-- The execute phase of a waiting LD Vx, K takes the PC increment of its cycle back. -/
theorem exec_ldVxK_beginCycle {s : State} (h : s.latch = none) (x : RegIdx) :
    exec (.ldVxK x) s.beginCycle = .next s := by
  have hback : s.beginCycle.setPc (s.beginCycle.pc - 2) = s := by
    rw [State.beginCycle_pc, BitVec.add_sub_cancel]
    rfl
  rw [exec_ldVxK_of_none (s := s.beginCycle) h, hback]

/-- Settles O43: a wait cycle leaves the state it began in, which the end of the cycle ticks or not. -/
theorem waitWithoutAKeyRepeats : Obligations.WaitWithoutAKeyRepeats := by
  unfold Obligations.WaitWithoutAKeyRepeats
  refine fun x s h => ⟨exec_ldVxK_of_none h x, fun hmode hdecode => ?_⟩
  have hstep := step_of_ok hmode hdecode (exec_ldVxK_beginCycle h x)
  rw [endCycle_of_running hmode] at hstep
  split at hstep
  · next hsilent => exact ⟨s, hstep, frame_of_timers s s.dt s.st (.inr rfl) (.inr rfl), rfl,
      by simp [hsilent]⟩
  · next hticks =>
    have htick : s.params.tickDuringWait = true :=
      Bool.eq_true_of_not_eq_false fun hsilent => hticks ⟨rfl, h, hsilent⟩
    exact ⟨s.tick, hstep, frame_tick s, rfl, by simp [htick, tickByte_toNat]⟩

/-- A fetch depends on memory and on PC modulo 4096. -/
theorem State.fetch_congr {s t : State} (hpc : t.pc.toNat % 4096 = s.pc.toNat % 4096)
    (hmem : t.mem = s.mem) : t.fetch = s.fetch := by
  have hlo : maskAddr t.pc.toNat = maskAddr s.pc.toNat := hpc
  have hhi : maskAddr (t.pc.toNat + 1) = maskAddr (s.pc.toNat + 1) := by
    unfold maskAddr
    omega
  rw [State.fetch_eq_masked, State.fetch_eq_masked, ← maskAddr_eq_and, ← maskAddr_eq_and,
    ← maskAddr_eq_and, ← maskAddr_eq_and, hlo, hhi, hmem]

/-- Settles O24: the jump goes to the low 12 bits of PC, from which the same word is fetched again. -/
theorem parkedCoreStaysParked : Obligations.ParkedCoreStaysParked := by
  unfold Obligations.ParkedCoreStaysParked
  rintro s hmode ⟨nnn, hdecode, hnnn⟩
  have hstep := step_eq_tick hmode rfl hdecode (exec_jp nnn s.beginCycle) hmode rfl
  have hpc : (zext16 nnn).toNat = s.pc.toNat % 4096 := (toNat_zext16 nnn).trans hnnn
  have hlow : (zext16 nnn).toNat % 4096 = s.pc.toNat % 4096 := by rw [hpc, Nat.mod_mod]
  refine ⟨_, hstep, ⟨nnn, ?fetches, ?target⟩, hmode, hpc, tickByte_toNat s.dt, tickByte_toNat s.st,
    (((frame_beginCycle s).comp (frame_setPc _ _)).comp (frame_tick _)).mono_parts
      (by decide)⟩
  case fetches =>
    have hfetch : (s.beginCycle.setPc (zext16 nnn)).tick.fetch = s.fetch := State.fetch_congr hlow rfl
    rwa [hfetch]
  case target => exact hnnn.trans hlow.symm

end Sys2Proof.Machine
end

section
/-! What one instruction can do, said once for all 34 (10_state.md R18; 60_exceptions.md R112 to R114): its
frame, and whether it completes or takes a fault. -/

namespace Sys2Proof.Machine

theorem exec_drw (x y : RegIdx) (n : Nibble) (s : State) : exec (.drw x y n) s =
    .next (State.setV { s with disp := (s.blit (s.getV x).toNat (s.getV y).toNat n.toNat).1 } vf
      (flagByte (s.blit (s.getV x).toNat (s.getV y).toNat n.toNat).2)) := rfl

theorem frame_drw (s : State) (d : Display) (b : Byte) :
    Frame [vf] [] [.display] s (State.setV { s with disp := d } vf b) :=
  (frame_of_disp s d).comp (frame_setV _ vf b)

theorem frame_skipOnKey (s : State) (x : RegIdx) (wanted : Bool) :
    Frame [] [] [.pc, .mode] s (s.skipOnKey x wanted) := by
  rcases s.skipOnKey_cases x wanted with ⟨k, -, heq⟩ | ⟨-, heq⟩ <;> rw [heq]
  · exact (frame_skipIf s _).mono_parts (by decide)
  · exact (frame_takeFault s _).mono_parts (by decide)

/-- Every instruction completes, and it writes what the access tables list at most. -/
theorem exec_frame (i : Instr) (s : State) : ∃ t, exec i s = .next t ∧
    Frame (regsWritten i) (storedAddrs i s) (partsWritten i) s t := by
  cases i
  case cls => exact ⟨_, exec_cls s, frame_of_disp s _⟩
  case ret =>
    rcases exec_ret_cases s with ⟨-, -, hexec⟩ | ⟨j, n, hexec, -⟩
    · exact ⟨_, hexec, (frame_takeFault s _).mono_parts (by simp [partsWritten])⟩
    · exact ⟨_, hexec, (frame_setPc_of_stack s s.stack n _).mono_parts (by simp [partsWritten])⟩
  case jp => exact ⟨_, exec_jp _ s, frame_setPc s _⟩
  case call nnn =>
    rcases exec_call_cases nnn s with ⟨-, -, hexec⟩ | ⟨j, n, hexec, -⟩
    · exact ⟨_, hexec, (frame_takeFault s _).mono_parts (by simp [partsWritten])⟩
    · exact ⟨_, hexec, (frame_setPc_of_stack s _ n _).mono_parts (by simp [partsWritten])⟩
  case seImm => exact ⟨_, exec_seImm _ _ s, frame_skipIf s _⟩
  case sneImm => exact ⟨_, exec_sneImm _ _ s, frame_skipIf s _⟩
  case seReg => exact ⟨_, exec_seReg _ _ s, frame_skipIf s _⟩
  case sneReg => exact ⟨_, exec_sneReg _ _ s, frame_skipIf s _⟩
  case ldImm => exact ⟨_, exec_ldImm _ _ s, frame_setV s _ _⟩
  case addImm => exact ⟨_, exec_addImm _ _ s, frame_setV s _ _⟩
  case ldReg => exact ⟨_, exec_ldReg _ _ s, frame_setV s _ _⟩
  case or => exact ⟨_, exec_or _ _ s, frame_setV s _ _⟩
  case and => exact ⟨_, exec_and _ _ s, frame_setV s _ _⟩
  case xor => exact ⟨_, exec_xor _ _ s, frame_setV s _ _⟩
  case addReg => exact ⟨_, exec_addReg _ _ s, frame_setResultFlag s _ _ _⟩
  case sub => exact ⟨_, exec_sub _ _ s, frame_setResultFlag s _ _ _⟩
  case shr => exact ⟨_, exec_shr _ _ s, frame_setResultFlag s _ _ _⟩
  case subn => exact ⟨_, exec_subn _ _ s, frame_setResultFlag s _ _ _⟩
  case shl => exact ⟨_, exec_shl _ _ s, frame_setResultFlag s _ _ _⟩
  case ldI => exact ⟨_, exec_ldI _ s, frame_setI s _⟩
  case jpV0 => exact ⟨_, exec_jpV0 _ s, frame_setPc s _⟩
  case rnd => exact ⟨_, exec_rnd _ _ s, frame_rnd s _ _ _⟩
  case drw => exact ⟨_, exec_drw _ _ _ s, frame_drw s _ _⟩
  case skp => exact ⟨_, exec_skp _ s, frame_skipOnKey s _ _⟩
  case sknp => exact ⟨_, exec_sknp _ s, frame_skipOnKey s _ _⟩
  case ldVxDt => exact ⟨_, exec_ldVxDt _ s, frame_setV s _ _⟩
  case ldVxK x =>
    cases hlatch : s.latch with
    | none => exact ⟨_, exec_ldVxK_of_none hlatch x, (frame_setPc s _).mono
        (List.nil_subset _) (List.Subset.refl _) (by simp [partsWritten])⟩
    | some k => exact ⟨_, exec_ldVxK_of_some hlatch x,
        (frame_takeKey s x _).mono_parts (by simp [partsWritten])⟩
  case ldDtVx => exact ⟨_, exec_ldDtVx _ s, frame_setDt s _⟩
  case ldStVx => exact ⟨_, exec_ldStVx _ s, frame_setSt s _⟩
  case addI => exact ⟨_, exec_addI _ s, frame_addI s _ _⟩
  case ldF => exact ⟨_, exec_ldF _ s, frame_setI s _⟩
  case ldB => exact ⟨_, exec_ldB _ s, frame_memWrite_index s _⟩
  case ldMemVx => exact ⟨_, exec_ldMemVx _ s, frame_ldMemVx s _⟩
  case ldVxMem => exact ⟨_, exec_ldVxMem _ s, frame_ldVxMem s _⟩

theorem frame_of_exec {i : Instr} {s t : State} (h : exec i s = .next t) :
    Frame (regsWritten i) (storedAddrs i s) (partsWritten i) s t := by
  obtain ⟨u, hexec, hframe⟩ := exec_frame i s
  obtain rfl : u = t := Host.Outcome.next.inj (hexec.symm.trans h)
  exact hframe

/-- Settles O48: each instruction's changes are among those that the tables give it. -/
theorem instructionsWriteOnlyWhatTheTablesList :
    Obligations.InstructionsWriteOnlyWhatTheTablesList := by
  unfold Obligations.InstructionsWriteOnlyWhatTheTablesList
  exact fun _ _ _ => frame_of_exec

theorem exec_writesFlag {i : Instr} (h : writesFlag i = true) (s : State) :
    ∃ t f, exec i s = .next t ∧ t.getV vf = flagByte f := by
  cases i
  case addReg => exact ⟨_, _, exec_addReg _ _ s, State.getV_setV_same _ _ _⟩
  case sub => exact ⟨_, _, exec_sub _ _ s, State.getV_setV_same _ _ _⟩
  case shr => exact ⟨_, _, exec_shr _ _ s, State.getV_setV_same _ _ _⟩
  case subn => exact ⟨_, _, exec_subn _ _ s, State.getV_setV_same _ _ _⟩
  case shl => exact ⟨_, _, exec_shl _ _ s, State.getV_setV_same _ _ _⟩
  case addI => exact ⟨_, _, exec_addI _ s, State.getV_setV_same _ _ _⟩
  case drw => exact ⟨_, _, exec_drw _ _ _ s, State.getV_setV_same _ _ _⟩
  all_goals cases h

theorem flagByte_eq_zero_or_one (f : Bool) : flagByte f = 0 ∨ flagByte f = 1 := by
  cases f
  · exact .inl rfl
  · exact .inr rfl

/-- Settles O50: a flag instruction writes a flag to VF last; for the others the frame says it. -/
theorem flagInstructionsLeaveVFZeroOrOne : Obligations.FlagInstructionsLeaveVFZeroOrOne := by
  unfold Obligations.FlagInstructionsLeaveVFZeroOrOne
  intro i s t h
  split
  · next hflag =>
    obtain ⟨u, f, hexec, hf⟩ := exec_writesFlag hflag s
    obtain rfl : u = t := Host.Outcome.next.inj (hexec.symm.trans h)
    rw [hf]
    exact flagByte_eq_zero_or_one f
  · obtain ⟨hregs, -⟩ := frame_of_exec h
    exact hregs vf

/-- The instruction raises the fault in the state: the conditions of 60_exceptions.md R112. -/
def RaisesFault (i : Instr) (s : State) : FaultCause → Prop
  | .stackUnderflow => i = .ret ∧ s.params.stackMode = .fault ∧ s.sp.val = 0
  | .stackOverflow => ∃ nnn, i = .call nnn ∧ s.params.stackMode = .fault ∧ s.sp.val = 16
  | .keyIndexRange => ∃ x, (i = .skp x ∨ i = .sknp x) ∧ 15 < (s.getV x).toNat

/-- What an instruction that takes no fault keeps of the mode, the diagnostics, the parameters, the canonical
form of memory and the bound on SP in the Wrap mode. -/
structure Completes (s t : State) : Prop where
  mode : t.mode = s.mode
  diag : t.diag = s.diag
  params : t.params = s.params
  memWf : s.mem.wf → t.mem.wf
  spWrap : s.params.stackMode = .wrap → s.sp.val < 16 → t.sp.val < 16

/-- No write of registers, I, PC, timers, display, latch or draws touches what `Completes` speaks of. -/
theorem completes_of_unwritten {s t : State} (hmode : t.mode = s.mode) (hdiag : t.diag = s.diag)
    (hparams : t.params = s.params) (hmem : t.mem = s.mem) (hsp : t.sp = s.sp) : Completes s t :=
  ⟨hmode, hdiag, hparams, fun h => hmem ▸ h, fun _ h => hsp ▸ h⟩

theorem completes_skipIf (s : State) (c : Bool) : Completes s (s.skipIf c) := by
  rw [State.skipIf_eq]
  exact completes_of_unwritten rfl rfl rfl rfl rfl

theorem skipOnKey_completes_or_faults (s : State) (x : RegIdx) (wanted : Bool) :
    Completes s (s.skipOnKey x wanted) ∨
      15 < (s.getV x).toNat ∧ s.skipOnKey x wanted = s.takeFault .keyIndexRange := by
  rcases s.skipOnKey_cases x wanted with ⟨k, -, heq⟩ | hfault
  · rw [heq]
    exact .inl (completes_skipIf s _)
  · exact .inr hfault

theorem completes_memWrite (s : State) (a : Nat) (bs : List Byte) : Completes s (s.memWrite a bs) :=
  ⟨rfl, rfl, rfl, Memory.writeAll_wf a bs, fun _ h => h⟩

/-- An instruction completes, or one of the three conditions holds and it takes the fault in the state that
it started from. -/
theorem exec_completes_or_faults (i : Instr) (s : State) : ∃ t, exec i s = .next t ∧
    (Completes s t ∨ ∃ c, RaisesFault i s c ∧ t = s.takeFault c) := by
  cases i
  case ret =>
    rcases exec_ret_cases s with ⟨hmode, hsp, hexec⟩ | ⟨j, n, hexec, hj, -⟩
    · exact ⟨_, hexec, .inr ⟨.stackUnderflow, ⟨rfl, hmode, hsp⟩, rfl⟩⟩
    · exact ⟨_, hexec, .inl ⟨rfl, rfl, rfl, id, fun _ _ => hj ▸ j.isLt⟩⟩
  case call nnn =>
    rcases exec_call_cases nnn s with ⟨hmode, hsp, hexec⟩ | ⟨j, n, hexec, hn⟩
    · exact ⟨_, hexec, .inr ⟨.stackOverflow, ⟨nnn, rfl, hmode, hsp⟩, rfl⟩⟩
    · refine ⟨_, hexec, .inl ⟨rfl, rfl, rfl, id, fun hwrap _ => ?_⟩⟩
      rcases hn with ⟨hfault, -⟩ | ⟨-, -, hn⟩
      · simp [hwrap] at hfault
      · exact hn ▸ Nat.mod_lt _ (by decide)
  case skp x =>
    exact ⟨_, exec_skp x s, (skipOnKey_completes_or_faults s x true).imp_right
      fun ⟨hx, heq⟩ => ⟨.keyIndexRange, ⟨x, .inl rfl, hx⟩, heq⟩⟩
  case sknp x =>
    exact ⟨_, exec_sknp x s, (skipOnKey_completes_or_faults s x false).imp_right
      fun ⟨hx, heq⟩ => ⟨.keyIndexRange, ⟨x, .inr rfl, hx⟩, heq⟩⟩
  case seImm => exact ⟨_, exec_seImm _ _ s, .inl (completes_skipIf s _)⟩
  case sneImm => exact ⟨_, exec_sneImm _ _ s, .inl (completes_skipIf s _)⟩
  case seReg => exact ⟨_, exec_seReg _ _ s, .inl (completes_skipIf s _)⟩
  case sneReg => exact ⟨_, exec_sneReg _ _ s, .inl (completes_skipIf s _)⟩
  case ldVxK x =>
    cases hlatch : s.latch with
    | none =>
      exact ⟨_, exec_ldVxK_of_none hlatch x, .inl (completes_of_unwritten rfl rfl rfl rfl rfl)⟩
    | some k =>
      exact ⟨_, exec_ldVxK_of_some hlatch x, .inl (completes_of_unwritten rfl rfl rfl rfl rfl)⟩
  case ldB => exact ⟨_, exec_ldB _ s, .inl (completes_memWrite s _ _)⟩
  case ldMemVx x =>
    obtain ⟨hmode, hdiag, hparams, hmem, hsp⟩ :=
      completes_memWrite s (s.indexAddr 0) (s.regsUpTo x)
    refine ⟨_, exec_ldMemVx x s, .inl ?_⟩
    rw [State.advanceIndex_eq]
    exact ⟨hmode, hdiag, hparams, hmem, hsp⟩
  case ldVxMem x =>
    refine ⟨_, exec_ldVxMem x s, .inl ?_⟩
    rw [State.advanceIndex_eq, State.loadRegs_eq]
    exact completes_of_unwritten rfl rfl rfl rfl rfl
  all_goals exact ⟨_, rfl, .inl (completes_of_unwritten rfl rfl rfl rfl rfl)⟩

theorem completes_or_faults_of_exec {i : Instr} {s t : State} (h : exec i s = .next t) :
    Completes s t ∨ ∃ c, RaisesFault i s c ∧ t = s.takeFault c := by
  obtain ⟨u, hexec, hcases⟩ := exec_completes_or_faults i s
  obtain rfl : u = t := Host.Outcome.next.inj (hexec.symm.trans h)
  exact hcases

/-- Settles O47: MODE is kept, or the fault that was taken names one of the three conditions. -/
theorem onlyTheListedConditionsHalt : Obligations.OnlyTheListedConditionsHalt := by
  unfold Obligations.OnlyTheListedConditionsHalt
  intro i s
  obtain ⟨t, hexec, hcompletes | ⟨c, hraises, rfl⟩⟩ := exec_completes_or_faults i s
  · exact ⟨t, hexec, .inl hcompletes.mode⟩
  · refine ⟨_, hexec, .inr ?_⟩
    cases c with
    | stackUnderflow =>
      obtain ⟨hi, hmode, hsp⟩ := hraises
      exact .inl ⟨hi, hmode, hsp, rfl⟩
    | stackOverflow =>
      obtain ⟨nnn, hi, hmode, hsp⟩ := hraises
      exact .inr (.inl ⟨nnn, hi, hmode, hsp, rfl⟩)
    | keyIndexRange =>
      obtain ⟨x, hi, hx⟩ := hraises
      exact .inr (.inr ⟨x, hi, hx, rfl⟩)

end Sys2Proof.Machine
end

section
/-! What one step can do, by how its cycle ended (30_encoding.md R62; 60_exceptions.md R113, R121). -/

namespace Sys2Proof.Machine

/-- All that a step to a next state can do: an unrecognized word, a fault, a silent wait, or a completed
instruction with its tick. -/
theorem step_ends {s t : State} (h : step s = .next t) : s.mode = .running ∧
    ((∃ w, decode s.fetch = .error w ∧ t = s.unrecognizedCycle) ∨
     (∃ i c, decode s.fetch = .ok i ∧
       t = (s.beginCycle.takeFault c).report (.fatal c) s.pc s.fetch) ∨
     (∃ i, decode s.fetch = .ok i ∧ isWaitKey i = true ∧ s.latch = none ∧
       s.params.tickDuringWait = false ∧ exec i s.beginCycle = .next t ∧ Completes s.beginCycle t) ∨
     ∃ i u, decode s.fetch = .ok i ∧
       ¬(isWaitKey i = true ∧ s.latch = none ∧ s.params.tickDuringWait = false) ∧
       exec i s.beginCycle = .next u ∧ Completes s.beginCycle u ∧ t = u.tick) := by
  obtain ⟨hmode, hcycle⟩ := step_cases h
  refine ⟨hmode, hcycle.imp_right ?_⟩
  rintro ⟨i, u, hdecode, hexec, rfl⟩
  rcases completes_or_faults_of_exec hexec with hcompletes | ⟨c, -, rfl⟩
  · have hrunning : u.mode = .running := hcompletes.mode.trans hmode
    rw [endCycle_of_running hrunning]
    split
    · next hsilent =>
      obtain ⟨hwait, hlatch, hquiet⟩ := hsilent
      exact .inr (.inl ⟨i, hdecode, hwait, hlatch, hquiet, hexec, hcompletes⟩)
    · next hticks => exact .inr (.inr ⟨i, u, hdecode, hticks, hexec, hcompletes, rfl⟩)
  · refine .inl ⟨i, c, hdecode, ?_⟩
    rw [endCycle_of_halted (State.takeFault_mode _ c), State.fetchAddr_beginCycle]

/-- Settles O46: only the cycle that took a fault ends halted, and the fault and its report are all that it
wrote after the PC increment. -/
theorem faultsArePrecise : Obligations.FaultsArePrecise := by
  unfold Obligations.FaultsArePrecise
  intro s t c a h hhalted
  obtain ⟨hmode, ⟨w, -, rfl⟩ | ⟨i, d, -, rfl⟩ | ⟨i, -, -, -, -, -, hcompletes⟩ |
    ⟨i, u, -, -, -, hcompletes, rfl⟩⟩ := step_ends h
  · have hrunning : s.unrecognizedCycle.mode = .running := hmode
    simp [hrunning] at hhalted
  · rw [State.report_mode, State.takeFault_mode, State.fetchAddr_beginCycle] at hhalted
    obtain ⟨rfl, rfl⟩ : d = c ∧ s.pc = a := Mode.halted.inj hhalted
    refine ⟨rfl, ?_⟩
    rw [State.takeFault, State.fetchAddr_beginCycle]
    rfl
  · rw [hcompletes.mode, State.beginCycle_mode, hmode] at hhalted
    cases hhalted
  · rw [State.tick_mode, hcompletes.mode, State.beginCycle_mode, hmode] at hhalted
    cases hhalted

@[simp] theorem State.getV_beginCycle (s : State) (x : RegIdx) : s.beginCycle.getV x = s.getV x := rfl

/-- What an instruction leaves in the timers, before the tick of its cycle. -/
theorem exec_timers {i : Instr} {s t : State} (h : exec i s = .next t) :
    (∃ x, i = .ldDtVx x ∧ t.dt = s.getV x ∧ t.st = s.st) ∨
    (∃ x, i = .ldStVx x ∧ t.st = s.getV x ∧ t.dt = s.dt) ∨
    ((∀ x, i ≠ .ldDtVx x) ∧ (∀ x, i ≠ .ldStVx x) ∧ t.dt = s.dt ∧ t.st = s.st) := by
  obtain ⟨-, -, hparts, -⟩ := frame_of_exec h
  cases i
  case ldDtVx x =>
    cases h
    exact .inl ⟨x, rfl, rfl, rfl⟩
  case ldStVx x =>
    cases h
    exact .inr (.inl ⟨x, rfl, rfl, rfl⟩)
  all_goals exact .inr (.inr ⟨by simp, by simp, hparts .dt (by simp [partsWritten]),
    hparts .st (by simp [partsWritten])⟩)

/-- Settles O10: the tick lowers what the instruction left in the timers, and a cycle that does not tick ran
no instruction that writes them. -/
theorem timersTickOncePerCompletedCycle : Obligations.TimersTickOncePerCompletedCycle := by
  unfold Obligations.TimersTickOncePerCompletedCycle
  intro s t h
  obtain ⟨hmode, ⟨w, hdecode, rfl⟩ | ⟨i, d, hdecode, rfl⟩ | ⟨i, hdecode, hwait, hlatch, hsilent, hexec, -⟩ |
    ⟨i, u, hdecode, hticks, hexec, hcompletes, rfl⟩⟩ := step_ends h
  · rw [if_neg (by simp [hdecode, State.unrecognizedCycle, hmode])]
    simp [hdecode, State.unrecognizedCycle, tickByte_toNat]
  · rw [if_pos (.inl (by simp))]
    exact ⟨rfl, rfl⟩
  · obtain ⟨x, rfl⟩ : ∃ x, i = .ldVxK x := by
      cases i
      case ldVxK x => exact ⟨x, rfl⟩
      all_goals cases hwait
    rw [if_pos (.inr ⟨⟨x, hdecode⟩, hlatch, hsilent⟩)]
    obtain ⟨-, -, hparts, -⟩ := frame_of_exec hexec
    exact ⟨hparts .dt (by simp [partsWritten]), hparts .st (by simp [partsWritten])⟩
  · rw [if_neg]
    · rcases exec_timers hexec with ⟨x, rfl, hdt, hst⟩ | ⟨x, rfl, hst, hdt⟩ | ⟨hnodt, hnost, hdt, hst⟩
      · simp [hdecode, tickByte_toNat, hdt, hst]
      · simp [hdecode, tickByte_toNat, hdt, hst]
      · simp [hdecode, tickByte_toNat, hdt, hst, hnodt, hnost]
    · rintro (hhalted | ⟨⟨x, hx⟩, hlatch, hsilent⟩)
      · exact hhalted (hcompletes.mode.trans hmode)
      · rw [hdecode] at hx
        cases hx
        exact hticks ⟨rfl, hlatch, hsilent⟩

end Sys2Proof.Machine
end

section
/-! The invariant of the machine (20_memory.md R40; 10_state.md R26; 60_exceptions.md R113, R117): every
move of a run keeps it. -/

namespace Sys2Proof.Machine

theorem inv_of_running {s : State} (hmode : s.mode = .running) (hmem : s.mem.wf)
    (hsp : s.params.stackMode = .wrap → s.sp.val < 16)
    (hdiag : ∀ d ∈ s.diag, d.cond = .unrecognizedInstruction) : s.Inv :=
  ⟨hmem, hsp, fun _ => hdiag, fun c a hhalted => by simp [hmode] at hhalted⟩

/-- The invariant reads neither the timers nor the keypad nor the latch. -/
theorem State.Inv.of_unread {s : State} (h : s.Inv) (d e : Byte) (keys : Vector Bool 16)
    (l : Option KeyIdx) : State.Inv { s with dt := d, st := e, key := keys, latch := l } :=
  ⟨h.memWf, h.spWrap, h.runningDiag, h.haltedDiag⟩

theorem inv_unrecognizedCycle {s : State} (h : s.Inv) (hmode : s.mode = .running) :
    s.unrecognizedCycle.Inv := by
  refine inv_of_running hmode h.memWf h.spWrap fun d hd => ?_
  rcases List.mem_append.mp hd with hbefore | hnew
  · exact h.runningDiag hmode d hbefore
  · rw [List.mem_singleton.mp hnew]

theorem inv_faultCycle {s : State} (h : s.Inv) (hmode : s.mode = .running) (c : FaultCause) :
    ((s.beginCycle.takeFault c).report (.fatal c) s.pc s.fetch).Inv := by
  refine ⟨h.memWf, h.spWrap, fun hrunning => ?running, fun d a hhalted => ?halted⟩
  case running => cases hrunning
  case halted =>
    rw [State.report_mode, State.takeFault_mode, State.fetchAddr_beginCycle] at hhalted
    obtain ⟨rfl, rfl⟩ : c = d ∧ s.pc = a := Mode.halted.inj hhalted
    exact ⟨rfl, s.diag, s.fetch, rfl, h.runningDiag hmode⟩

theorem inv_of_completes {s t : State} (h : s.Inv) (hmode : s.mode = .running)
    (hcompletes : Completes s.beginCycle t) : t.Inv := by
  obtain ⟨tmode, tdiag, tparams, tmem, tsp⟩ := hcompletes
  refine inv_of_running (tmode.trans hmode) (tmem h.memWf) (fun hwrap => ?_) ?_
  · rw [tparams] at hwrap
    exact tsp hwrap (h.spWrap hwrap)
  · rw [tdiag]
    exact h.runningDiag hmode

theorem step_inv {s t : State} (h : s.Inv) (hstep : step s = .next t) : t.Inv := by
  obtain ⟨hmode, ⟨w, -, rfl⟩ | ⟨i, c, -, rfl⟩ | ⟨i, -, -, -, -, -, hcompletes⟩ |
    ⟨i, u, -, -, -, hcompletes, rfl⟩⟩ := step_ends hstep
  · exact inv_unrecognizedCycle h hmode
  · exact inv_faultCycle h hmode c
  · exact inv_of_completes h hmode hcompletes
  · exact (inv_of_completes h hmode hcompletes).of_unread _ _ _ _

/-- Settles O51: each way in which a step can end keeps the invariant. -/
theorem stepKeepsTheInvariant : Obligations.StepKeepsTheInvariant := by
  unfold Obligations.StepKeepsTheInvariant
  exact fun _ _ => step_inv

theorem inv_hostReset (c : Setup) : (hostReset c).Inv :=
  inv_of_running rfl (Memory.writeAll_wf 0 _ Memory.nil_wf) (fun _ => Nat.zero_lt_succ 15)
    (by simp [hostReset, State.reset])

/-- Settles O52: the fresh core is running, its memory list is empty and it has reported nothing. -/
theorem resetMeetsTheInvariant : Obligations.ResetMeetsTheInvariant := by
  unfold Obligations.ResetMeetsTheInvariant
  exact inv_of_running rfl Memory.nil_wf (fun _ => by decide) (by simp [State.reset])

/-- The image load writes memory alone. -/
theorem loadImage_eq_ok {image : Option (List Byte)} {s t : State} (h : loadImage image s = .ok t) :
    ∃ bytes, t = s.memWrite 0x200 bytes := by
  cases image with
  | none => cases h
  | some bytes =>
    simp only [loadImage] at h
    split at h
    · cases h
      exact ⟨bytes, rfl⟩
    · cases h

theorem boot_inv {c : Setup} {image : Option (List Byte)} {s : State} (h : boot c image = .ok s) :
    s.Inv := by
  obtain ⟨bytes, rfl⟩ := loadImage_eq_ok h
  have hreset := inv_hostReset c
  exact ⟨Memory.writeAll_wf _ _ hreset.memWf, hreset.spWrap, hreset.runningDiag, hreset.haltedDiag⟩

theorem move_inv {m : Move} {s t : State} (h : s.Inv) (hmove : move m s = .next t) : t.Inv := by
  cases m with
  | cycle =>
    simp only [move, strobe] at hmove
    split at hmove
    · cases hmove
      exact h
    · exact step_inv h hmove
  | key k p =>
    cases hmove
    exact h.of_unread _ _ _ _

/-- Settles O53: the boot sets the invariant up, and every move of the schedule keeps it. -/
theorem reachableStatesMeetTheInvariant : Obligations.ReachableStatesMeetTheInvariant := by
  unfold Obligations.ReachableStatesMeetTheInvariant
  intro s hs
  induction hs with
  | boot _ hboot => exact boot_inv hboot
  | move _ hmove ih => exact move_inv ih hmove

end Sys2Proof.Machine
end

section
/-! What an instruction's effect depends on among the registers (10_state.md R18). -/

namespace Sys2Proof.Machine

/-- From `s` to `t` and from `u` to `w` the same was written: `t` and `w` differ in registers at most, and in
those only where neither was written. -/
def WrittenAlike (s u t w : State) : Prop :=
  w = { t with v := w.v } ∧ ∀ r, w.getV r = t.getV r ∨ (w.getV r = u.getV r ∧ t.getV r = s.getV r)

theorem writtenAlike_refl {s u : State} (h : u = { s with v := u.v }) : WrittenAlike s u s u :=
  ⟨h, fun _ => .inr ⟨rfl, rfl⟩⟩

theorem WrittenAlike.setV {s u t w : State} (h : WrittenAlike s u t w) (x : RegIdx) (b : Byte) :
    WrittenAlike s u (t.setV x b) (w.setV x b) := by
  obtain ⟨hw, hregs⟩ := h
  refine ⟨?rest, fun r => ?regs⟩
  case rest =>
    rw [hw]
    rfl
  case regs =>
    rw [State.getV_setV, State.getV_setV]
    split
    · exact .inl rfl
    · exact hregs r

theorem WrittenAlike.foldl_setV {s u t w : State} (h : WrittenAlike s u t w) (f : Nat → Byte)
    (l : List Nat) : WrittenAlike s u (l.foldl (fun a k => a.setV (BitVec.ofNat 4 k) (f k)) t)
      (l.foldl (fun a k => a.setV (BitVec.ofNat 4 k) (f k)) w) := by
  induction l generalizing t w with
  | nil => exact h
  | cons k l ih => exact ih (h.setV _ _)

/-- An update that neither reads nor writes the register file. -/
def IgnoresRegs (f : State → State) : Prop :=
  ∀ (a : State) (regs : Vector Byte 16), f { a with v := regs } = { f a with v := regs }

theorem IgnoresRegs.v_eq {f : State → State} (hf : IgnoresRegs f) (a : State) : (f a).v = a.v :=
  (congrArg State.v (hf a a.v) :)

theorem WrittenAlike.map {s u t w : State} (h : WrittenAlike s u t w) {f : State → State}
    (hf : IgnoresRegs f) : WrittenAlike s u (f t) (f w) := by
  obtain ⟨hw, hregs⟩ := h
  refine ⟨?rest, fun r => ?regs⟩
  case rest =>
    rw [hf.v_eq w]
    calc f w = f { t with v := w.v } := congrArg f hw
      _ = { f t with v := w.v } := hf t w.v
  case regs =>
    rw [State.getV_congr (hf.v_eq w), State.getV_congr (hf.v_eq t)]
    exact hregs r

theorem ignoresRegs_skipIf (c : Bool) : IgnoresRegs (·.skipIf c) := by
  intro a regs
  cases c <;> rfl

theorem ignoresRegs_advanceIndex (x : RegIdx) : IgnoresRegs (·.advanceIndex x) := by
  intro a regs
  simp only [State.advanceIndex_eq]

theorem ignoresRegs_ret :
    IgnoresRegs fun a => a.orFault (a.pop.map fun popped => popped.2.setPc popped.1) := by
  intro a regs
  unfold State.pop
  dsimp only
  split
  · split <;> rfl
  · rfl

theorem ignoresRegs_call (nnn : Addr12) :
    IgnoresRegs fun a => a.orFault ((a.push a.pc).map fun t => t.setPc (zext16 nnn)) := by
  intro a regs
  unfold State.push
  dsimp only
  split
  · split <;> rfl
  · rfl

/-- The two states agree on what a skip on a key reads: the key that Vx names and its level. -/
theorem WrittenAlike.skipOnKey {s u : State} (h : u = { s with v := u.v }) {x : RegIdx}
    (hx : u.getV x = s.getV x) (wanted : Bool) :
    WrittenAlike s u (s.skipOnKey x wanted) (u.skipOnKey x wanted) := by
  have hkey (k : KeyIdx) : u.getKey k = s.getKey k := by
    rw [h]
    rfl
  simp only [State.skipOnKey, hx, hkey]
  split
  · exact (writtenAlike_refl h).map (ignoresRegs_skipIf _)
  · exact (writtenAlike_refl h).map (f := (·.takeFault .keyIndexRange)) fun _ _ => rfl

theorem regsUpTo_congr {s u : State} {x : RegIdx} (h : ∀ r ∈ regRange x, u.getV r = s.getV r) :
    u.regsUpTo x = s.regsUpTo x := by
  refine List.ext_getElem? fun k => ?_
  rcases Nat.lt_or_ge x.toNat k with hk | hk
  · rw [List.getElem?_eq_none (by rw [length_regsUpTo]; exact hk),
      List.getElem?_eq_none (by rw [length_regsUpTo]; exact hk)]
  · have hindex : (BitVec.ofNat 4 k).toNat = k := Nat.mod_eq_of_lt (by have := x.isLt; omega)
    have hr : (BitVec.ofNat 4 k).toNat ≤ x.toNat := by rwa [hindex]
    rw [← hindex, regsUpTo_getElem? u hr, regsUpTo_getElem? s hr, h _ (mem_regRange.mpr hr)]

/-- An instruction reads registers only where the table lists them: the rest of what it does is an update
that ignores the register file, and writes of equal bytes to the same registers. -/
theorem exec_writtenAlike (i : Instr) {s u : State} (h : u = { s with v := u.v })
    (hread : ∀ r ∈ regsRead i, u.getV r = s.getV r) :
    ∃ t w, exec i s = .next t ∧ exec i u = .next w ∧ WrittenAlike s u t w := by
  have hsame := writtenAlike_refl h
  have hi : u.i = s.i := (congrArg State.i h :)
  have hlatch : u.latch = s.latch := (congrArg State.latch h :)
  have hdt : u.dt = s.dt := (congrArg State.dt h :)
  have hdraws : u.draws = s.draws := (congrArg State.draws h :)
  have hmem : u.mem = s.mem := (congrArg State.mem h :)
  cases i
  case cls =>
    exact ⟨_, _, rfl, rfl, hsame.map (f := fun a => { a with disp := clearDisplay }) fun _ _ => rfl⟩
  case ret => exact ⟨_, _, rfl, rfl, hsame.map ignoresRegs_ret⟩
  case jp nnn => exact ⟨_, _, rfl, rfl, hsame.map (f := (·.setPc (zext16 nnn))) fun _ _ => rfl⟩
  case call nnn => exact ⟨_, _, rfl, rfl, hsame.map (ignoresRegs_call nnn)⟩
  case seImm x kk | sneImm x kk =>
    refine ⟨_, _, rfl, rfl, ?_⟩
    rw [hread x (by simp [regsRead])]
    exact hsame.map (ignoresRegs_skipIf _)
  case seReg x y | sneReg x y =>
    refine ⟨_, _, rfl, rfl, ?_⟩
    rw [hread x (by simp [regsRead]), hread y (by simp [regsRead])]
    exact hsame.map (ignoresRegs_skipIf _)
  case ldImm x kk => exact ⟨_, _, rfl, rfl, hsame.setV x kk⟩
  case addImm x kk =>
    refine ⟨_, _, rfl, rfl, ?_⟩
    rw [hread x (by simp [regsRead])]
    exact hsame.setV x _
  case ldReg x y =>
    refine ⟨_, _, rfl, rfl, ?_⟩
    rw [hread y (by simp [regsRead])]
    exact hsame.setV x _
  case or x y | and x y | xor x y =>
    refine ⟨_, _, rfl, rfl, ?_⟩
    rw [hread x (by simp [regsRead]), hread y (by simp [regsRead])]
    exact hsame.setV x _
  case addReg x y | sub x y | subn x y =>
    refine ⟨_, _, rfl, rfl, ?_⟩
    rw [hread x (by simp [regsRead]), hread y (by simp [regsRead])]
    exact (hsame.setV x _).setV vf _
  case shr x y | shl x y =>
    refine ⟨_, _, rfl, rfl, ?_⟩
    rw [hread x (by simp [regsRead])]
    exact (hsame.setV x _).setV vf _
  case ldI nnn => exact ⟨_, _, rfl, rfl, hsame.map (f := (·.setI (zext16 nnn))) fun _ _ => rfl⟩
  case jpV0 nnn =>
    refine ⟨_, _, rfl, rfl, ?_⟩
    rw [hread 0 (by simp [regsRead])]
    exact hsame.map (f := (·.setPc _)) fun _ _ => rfl
  case rnd x kk =>
    refine ⟨_, _, rfl, rfl, ?_⟩
    simp only [State.drawByte, hdraws]
    exact (hsame.map (f := fun a => { a with draws := s.draws + 1 }) fun _ _ => rfl).setV x _
  case drw x y n =>
    have hdisp : u.disp = s.disp := (congrArg State.disp h :)
    have hblit (ox oy rows : Nat) : u.blit ox oy rows = s.blit ox oy rows := by
      simp only [State.blit, State.indexAddr, hmem, hi, hdisp]
    refine ⟨_, _, exec_drw x y n s, exec_drw x y n u, ?_⟩
    rw [hread x (by simp [regsRead]), hread y (by simp [regsRead]), hblit]
    exact (hsame.map (f := fun a => { a with disp := _ }) fun _ _ => rfl).setV vf _
  case skp x => exact ⟨_, _, rfl, rfl, .skipOnKey h (hread x (by simp [regsRead])) true⟩
  case sknp x => exact ⟨_, _, rfl, rfl, .skipOnKey h (hread x (by simp [regsRead])) false⟩
  case ldVxDt x =>
    refine ⟨_, _, rfl, rfl, ?_⟩
    rw [hdt]
    exact hsame.setV x _
  case ldVxK x =>
    cases hs : s.latch with
    | none => exact ⟨_, _, exec_ldVxK_of_none hs x, exec_ldVxK_of_none (hlatch.trans hs) x,
        hsame.map (f := fun a => a.setPc (a.pc - 2)) fun _ _ => rfl⟩
    | some k => exact ⟨_, _, exec_ldVxK_of_some hs x, exec_ldVxK_of_some (hlatch.trans hs) x,
        (hsame.map (f := fun a => { a with latch := none }) fun _ _ => rfl).setV x _⟩
  case ldDtVx x =>
    refine ⟨_, _, rfl, rfl, ?_⟩
    rw [hread x (by simp [regsRead])]
    exact hsame.map (f := (·.setDt _)) fun _ _ => rfl
  case ldStVx x =>
    refine ⟨_, _, rfl, rfl, ?_⟩
    rw [hread x (by simp [regsRead])]
    exact hsame.map (f := (·.setSt _)) fun _ _ => rfl
  case addI x =>
    refine ⟨_, _, rfl, rfl, ?_⟩
    rw [hread x (by simp [regsRead]), hi]
    exact (hsame.map (f := (·.setI _)) fun _ _ => rfl).setV vf _
  case ldF x =>
    refine ⟨_, _, rfl, rfl, ?_⟩
    rw [hread x (by simp [regsRead])]
    exact hsame.map (f := (·.setI _)) fun _ _ => rfl
  case ldB x =>
    refine ⟨_, _, rfl, rfl, ?_⟩
    rw [hread x (by simp [regsRead])]
    exact hsame.map (f := fun a => a.memWrite (a.indexAddr 0) _) fun _ _ => rfl
  case ldMemVx x =>
    refine ⟨_, _, rfl, rfl, ?_⟩
    rw [regsUpTo_congr hread]
    exact (hsame.map (f := fun a => a.memWrite (a.indexAddr 0) _) fun _ _ => rfl).map
      (ignoresRegs_advanceIndex x)
  case ldVxMem x =>
    refine ⟨_, _, rfl, rfl, ?_⟩
    simp only [State.loadRegs, State.indexAddr, hmem, hi]
    exact (hsame.foldl_setV (fun k => s.mem.read (s.i.toNat + k)) _).map (ignoresRegs_advanceIndex x)

/-- Settles O49: the two outcomes are written alike. -/
theorem registersOutsideTheReadTableDoNotMatter :
    Obligations.RegistersOutsideTheReadTableDoNotMatter := by
  unfold Obligations.RegistersOutsideTheReadTableDoNotMatter
  intro i s u h hread
  obtain ⟨t, w, hs, hu, hrest, hregs⟩ := exec_writtenAlike i h hread
  exact ⟨t, w, hs, hu, hrest, hregs⟩

end Sys2Proof.Machine
end

section
/-! Bits 15:12 of PC (10_state.md R19, decision D2): every write of an instruction, and then every part of a
cycle, keeps two states equal up to those bits. -/

namespace Sys2Proof.Machine

theorem SameLow12.add {a b : Word} (h : SameLow12 a b) (c : Word) : SameLow12 (a + c) (b + c) := by
  unfold SameLow12 at h ⊢
  rw [BitVec.toNat_add, BitVec.toNat_add]
  omega

theorem SameLow12.sub_two {a b : Word} (h : SameLow12 a b) : SameLow12 (a - 2) (b - 2) := by
  rw [BitVec.sub_eq_add_neg, BitVec.sub_eq_add_neg]
  exact h.add _

section

variable {s t : State} (h : s.SamePcLow12 t)

include h

theorem State.SamePcLow12.getV_eq (x : RegIdx) : t.getV x = s.getV x := State.getV_congr h.v x

theorem State.SamePcLow12.getKey_eq (k : KeyIdx) : t.getKey k = s.getKey k := by
  simp only [State.getKey, h.key]

theorem State.SamePcLow12.fetch_eq : t.fetch = s.fetch := State.fetch_congr h.pc h.mem

theorem State.SamePcLow12.blit_eq (ox oy rows : Nat) : t.blit ox oy rows = s.blit ox oy rows := by
  simp only [State.blit, State.indexAddr, h.mem, h.i, h.disp]

theorem State.SamePcLow12.setV (x : RegIdx) (b : Byte) : (s.setV x b).SamePcLow12 (t.setV x b) :=
  { h with v := by simp only [State.setV_v, h.v] }

theorem State.SamePcLow12.setI (w : Word) : (s.setI w).SamePcLow12 (t.setI w) := { h with i := rfl }

theorem State.SamePcLow12.setPc {a b : Word} (hab : SameLow12 b a) :
    (s.setPc a).SamePcLow12 (t.setPc b) := { h with pc := hab }

theorem State.SamePcLow12.setDt (b : Byte) : (s.setDt b).SamePcLow12 (t.setDt b) :=
  { h with dt := rfl }

theorem State.SamePcLow12.setSt (b : Byte) : (s.setSt b).SamePcLow12 (t.setSt b) :=
  { h with st := rfl }

theorem State.SamePcLow12.memWrite (bs : List Byte) :
    (s.memWrite (s.indexAddr 0) bs).SamePcLow12 (t.memWrite (t.indexAddr 0) bs) :=
  { h with mem := by simp only [State.memWrite_mem, State.indexAddr, h.mem, h.i] }

theorem State.SamePcLow12.setDisp (d : Display) :
    State.SamePcLow12 { s with disp := d } { t with disp := d } := { h with disp := rfl }

theorem State.SamePcLow12.setLatch (l : Option KeyIdx) :
    State.SamePcLow12 { s with latch := l } { t with latch := l } := { h with latch := rfl }

theorem State.SamePcLow12.setDraws (n : Nat) :
    State.SamePcLow12 { s with draws := n } { t with draws := n } := { h with draws := rfl }

theorem State.SamePcLow12.setSp (n : Fin 17) :
    State.SamePcLow12 { s with sp := n } { t with sp := n } := { h with sp := rfl }

theorem State.SamePcLow12.setStack (j : Fin 16) {a b : Word} (hab : SameLow12 b a) :
    (s.setStack j a).SamePcLow12 (t.setStack j b) where
  __ := h
  stack k := by
    rw [State.getStack_setStack, State.getStack_setStack]
    split
    · exact hab
    · exact h.stack k

theorem State.SamePcLow12.takeFault (c : FaultCause) : (s.takeFault c).SamePcLow12 (t.takeFault c) :=
  { h with mode := ⟨rfl, h.pc.sub_two⟩ }

theorem State.SamePcLow12.report (c : Condition) {a b : Word} (hab : SameLow12 b a) (w : Word) :
    (s.report c a w).SamePcLow12 (t.report c b w) :=
  { h with diag := List.rel_append h.diag (.cons ⟨rfl, hab, rfl⟩ .nil) }

theorem State.SamePcLow12.tick : s.tick.SamePcLow12 t.tick :=
  { h with dt := congrArg tickByte h.dt, st := congrArg tickByte h.st }

theorem State.SamePcLow12.beginCycle : s.beginCycle.SamePcLow12 t.beginCycle := h.setPc (h.pc.add 2)

theorem State.SamePcLow12.skipIf (c : Bool) : (s.skipIf c).SamePcLow12 (t.skipIf c) := by
  cases c with
  | false => exact h
  | true => exact h.setPc (h.pc.add 2)

theorem State.SamePcLow12.skipOnKey (x : RegIdx) (wanted : Bool) :
    (s.skipOnKey x wanted).SamePcLow12 (t.skipOnKey x wanted) := by
  simp only [State.skipOnKey, h.getV_eq, h.getKey_eq]
  split
  · exact h.skipIf _
  · exact h.takeFault _

theorem State.SamePcLow12.advanceIndex (x : RegIdx) :
    (s.advanceIndex x).SamePcLow12 (t.advanceIndex x) := by
  unfold State.advanceIndex
  rw [h.params, h.i]
  split
  · exact h.setI _
  · exact h

theorem State.SamePcLow12.foldl_setV (f : Nat → Byte) (l : List Nat) :
    (l.foldl (fun a k => a.setV (BitVec.ofNat 4 k) (f k)) s).SamePcLow12
      (l.foldl (fun a k => a.setV (BitVec.ofNat 4 k) (f k)) t) := by
  induction l generalizing s t with
  | nil => exact h
  | cons k l ih => exact ih (h.setV _ _)

/-- RET in both: the same SP and mode lead to the same outcome and the same entry. -/
theorem State.SamePcLow12.exec_ret : ∃ s' t', exec .ret s = .next s' ∧ exec .ret t = .next t' ∧
    s'.SamePcLow12 t' := by
  rcases exec_ret_cases s with ⟨hmode, hsp, hs⟩ | ⟨j, n, hs, hj, hn⟩ <;>
    rcases exec_ret_cases t with ⟨tmode, tsp, ht⟩ | ⟨k, m, ht, hk, hm⟩
  · exact ⟨_, _, hs, ht, h.takeFault _⟩
  · rw [h.params, h.sp, hmode, hsp] at hm
    simp at hm
  · rw [h.params] at tmode
    rw [h.sp] at tsp
    simp [tmode, tsp] at hn
  · rw [h.params, h.sp] at hm
    obtain rfl : n = m := Fin.ext (by grind)
    obtain rfl : j = k := Fin.ext (hj.trans hk.symm)
    exact ⟨_, _, hs, ht, (h.setSp n).setPc (h.stack j)⟩

/-- CALL in both: the same SP and mode lead to the same outcome, and the stacked PCs differ as PC does. -/
theorem State.SamePcLow12.exec_call (nnn : Addr12) : ∃ s' t', exec (.call nnn) s = .next s' ∧
    exec (.call nnn) t = .next t' ∧ s'.SamePcLow12 t' := by
  rcases exec_call_cases nnn s with ⟨hmode, hsp, hs⟩ | ⟨j, n, hs, hn⟩ <;>
    rcases exec_call_cases nnn t with ⟨tmode, tsp, ht⟩ | ⟨k, m, ht, hm⟩
  · exact ⟨_, _, hs, ht, h.takeFault _⟩
  · rw [h.params, h.sp, hmode, hsp] at hm
    have := k.isLt
    grind
  · rw [h.params] at tmode
    rw [h.sp] at tsp
    have := j.isLt
    grind
  · rw [h.params, h.sp] at hm
    obtain rfl : n = m := Fin.ext (by grind)
    obtain rfl : j = k := Fin.ext (by grind)
    exact ⟨_, _, hs, ht, ((h.setStack j h.pc).setSp n).setPc rfl⟩

theorem State.SamePcLow12.exec (i : Instr) : ∃ s' t', exec i s = .next s' ∧ exec i t = .next t' ∧
    s'.SamePcLow12 t' := by
  cases i
  case ret => exact h.exec_ret
  case call nnn => exact h.exec_call nnn
  case jp => exact ⟨_, _, rfl, rfl, h.setPc rfl⟩
  case jpV0 =>
    refine ⟨_, _, rfl, rfl, ?_⟩
    rw [h.getV_eq]
    exact h.setPc rfl
  case cls => exact ⟨_, _, rfl, rfl, h.setDisp _⟩
  case seImm | sneImm | seReg | sneReg =>
    refine ⟨_, _, rfl, rfl, ?_⟩
    simp only [h.getV_eq]
    exact h.skipIf _
  case skp x => exact ⟨_, _, rfl, rfl, h.skipOnKey x true⟩
  case sknp x => exact ⟨_, _, rfl, rfl, h.skipOnKey x false⟩
  case ldImm x kk => exact ⟨_, _, rfl, rfl, h.setV x kk⟩
  case addImm | ldReg | or | and | xor =>
    refine ⟨_, _, rfl, rfl, ?_⟩
    simp only [h.getV_eq]
    exact h.setV _ _
  case addReg | sub | shr | subn | shl =>
    refine ⟨_, _, rfl, rfl, ?_⟩
    simp only [h.getV_eq]
    exact (h.setV _ _).setV vf _
  case rnd x kk =>
    refine ⟨_, _, exec_rnd x kk s, exec_rnd x kk t, ?_⟩
    rw [h.draws]
    exact (h.setDraws _).setV x _
  case drw x y n =>
    refine ⟨_, _, exec_drw x y n s, exec_drw x y n t, ?_⟩
    rw [h.getV_eq, h.getV_eq, h.blit_eq]
    exact (h.setDisp _).setV vf _
  case ldVxDt x =>
    refine ⟨_, _, rfl, rfl, ?_⟩
    rw [h.dt]
    exact h.setV x _
  case ldVxK x =>
    cases hlatch : s.latch with
    | none => exact ⟨_, _, exec_ldVxK_of_none hlatch x,
        exec_ldVxK_of_none (h.latch.trans hlatch) x, h.setPc h.pc.sub_two⟩
    | some k => exact ⟨_, _, exec_ldVxK_of_some hlatch x,
        exec_ldVxK_of_some (h.latch.trans hlatch) x, (h.setLatch none).setV x _⟩
  case ldDtVx =>
    refine ⟨_, _, rfl, rfl, ?_⟩
    rw [h.getV_eq]
    exact h.setDt _
  case ldStVx =>
    refine ⟨_, _, rfl, rfl, ?_⟩
    rw [h.getV_eq]
    exact h.setSt _
  case ldI => exact ⟨_, _, rfl, rfl, h.setI _⟩
  case addI =>
    refine ⟨_, _, rfl, rfl, ?_⟩
    rw [h.getV_eq, h.i]
    exact (h.setI _).setV vf _
  case ldF =>
    refine ⟨_, _, rfl, rfl, ?_⟩
    rw [h.getV_eq]
    exact h.setI _
  case ldB =>
    refine ⟨_, _, rfl, rfl, ?_⟩
    rw [h.getV_eq]
    exact h.memWrite _
  case ldMemVx x =>
    refine ⟨_, _, rfl, rfl, ?_⟩
    rw [State.regsUpTo, State.regsUpTo, h.v]
    exact (h.memWrite _).advanceIndex x
  case ldVxMem x =>
    refine ⟨_, _, rfl, rfl, ?_⟩
    simp only [State.loadRegs, State.indexAddr, h.mem, h.i]
    exact (h.foldl_setV _ _).advanceIndex x

theorem State.SamePcLow12.unrecognizedCycle : s.unrecognizedCycle.SamePcLow12 t.unrecognizedCycle := by
  unfold State.unrecognizedCycle
  rw [h.fetch_eq]
  exact (h.beginCycle.report _ h.pc _).tick

/-- Both cycles end alike: the modes differ in the recorded address at most. -/
theorem State.SamePcLow12.endCycle (i : Instr) {u w : State} (huw : u.SamePcLow12 w) :
    (endCycle i s u).SamePcLow12 (endCycle i t w) := by
  have hmodes := huw.mode
  cases hu : u.mode <;> cases hw : w.mode <;> rw [hu, hw] at hmodes
  case running.running =>
    rw [endCycle_of_running hu, endCycle_of_running hw, h.latch, h.params]
    split
    · exact huw
    · exact huw.tick
  case halted.halted =>
    obtain ⟨rfl, haddr⟩ := hmodes
    rw [endCycle_of_halted hu, endCycle_of_halted hw, h.fetch_eq]
    exact huw.report _ haddr _
  all_goals exact hmodes.elim

theorem State.SamePcLow12.step (hs : s.mode = .running) (ht : t.mode = .running) :
    ∃ s' t', step s = .next s' ∧ step t = .next t' ∧ s'.SamePcLow12 t' := by
  cases hdecode : decode s.fetch with
  | error e =>
    exact ⟨_, _, step_of_error hs hdecode, step_of_error ht (h.fetch_eq ▸ hdecode),
      h.unrecognizedCycle⟩
  | ok i =>
    obtain ⟨u, w, hu, hw, huw⟩ := h.beginCycle.exec i
    exact ⟨_, _, step_of_ok hs hdecode hu, step_of_ok ht (h.fetch_eq ▸ hdecode) hw, h.endCycle i huw⟩

end

/-- Settles O54: both cores are halted alike and take no cycle, or both are running and their cycles agree. -/
theorem highPcBitsAreUnobservable : Obligations.HighPcBitsAreUnobservable := by
  unfold Obligations.HighPcBitsAreUnobservable
  intro s t h
  have hmodes := h.mode
  cases hs : s.mode <;> cases ht : t.mode <;> rw [hs, ht] at hmodes
  case running.running => exact .inl (h.step hs ht)
  case halted.halted =>
    obtain ⟨rfl, haddr⟩ := hmodes
    exact .inr ⟨_, _, _, step_of_halted hs, step_of_halted ht, haddr.symm⟩
  all_goals exact hmodes.elim

end Sys2Proof.Machine
end

section
/-! The canonical form of memory (log 5): a canonical list is determined by the bytes it reads as. -/

namespace Sys2Proof.Machine

theorem Memory.mem_of_lookup {m : Memory} {a : Nat} {b : Byte} (h : m.lookup a = some b) :
    (a, b) ∈ m := by
  induction m with
  | nil => cases h
  | cons d m ih =>
    simp only [Memory.lookup] at h
    split at h
    · next hd =>
      obtain rfl : d = (a, b) := Prod.ext hd (Option.some.inj h)
      exact List.mem_cons_self
    · exact List.mem_cons_of_mem _ (ih h)

theorem Memory.lookup_of_mem {m : Memory} (hm : m.Pairwise (fun c d => c.1 < d.1)) {c : Host.Cell}
    (h : c ∈ m) : m.lookup c.1 = some c.2 := by
  induction m with
  | nil => cases h
  | cons d m ih =>
    obtain ⟨hd, hrest⟩ := List.pairwise_cons.mp hm
    rcases List.mem_cons.mp h with rfl | hin
    · exact if_pos rfl
    · exact (if_neg (Nat.ne_of_lt (hd c hin))).trans (ih hrest hin)

/-- A canonical list names exactly the addresses that read as another byte than their reset content. -/
theorem Memory.lookup_eq_of_wf {m : Memory} (hm : m.wf) (a : Nat) : m.lookup a =
    if a < 4096 ∧ m.read a ≠ resetByte a then some (m.read a) else none := by
  obtain ⟨-, hcells⟩ := hm
  have hread (ha : a < 4096) : m.read a = (m.lookup a).getD (resetByte a) := by
    rw [Memory.read, maskAddr, Nat.mod_eq_of_lt ha]
  cases hlookup : m.lookup a with
  | none =>
    rw [if_neg]
    rintro ⟨ha, hne⟩
    exact hne (by rw [hread ha, hlookup]; rfl)
  | some b =>
    obtain ⟨ha, hne⟩ := hcells _ (Memory.mem_of_lookup hlookup)
    have hb : m.read a = b := by rw [hread ha, hlookup]; rfl
    rw [hb, if_pos ⟨ha, hne⟩]

/-- Settles O12: the two lists name the same cells in the same rising order. -/
theorem canonicalMemoriesAreEqualWhenTheirBytesAre :
    Obligations.CanonicalMemoriesAreEqualWhenTheirBytesAre := by
  unfold Obligations.CanonicalMemoriesAreEqualWhenTheirBytesAre
  intro m n hm hn hread
  have hlookup (a : Nat) : m.lookup a = n.lookup a := by
    rw [Memory.lookup_eq_of_wf hm, Memory.lookup_eq_of_wf hn]
    by_cases ha : a < 4096
    · rw [hread a ha]
    · rw [if_neg (fun h => ha h.1), if_neg (fun h => ha h.1)]
  have hcells (c : Host.Cell) : c ∈ m ↔ c ∈ n :=
    ⟨fun h => Memory.mem_of_lookup ((hlookup c.1).symm.trans (Memory.lookup_of_mem hm.1 h)),
      fun h => Memory.mem_of_lookup ((hlookup c.1).trans (Memory.lookup_of_mem hn.1 h))⟩
  have : Std.Irrefl fun c d : Host.Cell => c.1 < d.1 := ⟨fun c => Nat.lt_irrefl c.1⟩
  have : Std.Antisymm fun c d : Host.Cell => c.1 < d.1 :=
    ⟨fun _ _ h k => absurd k (Nat.lt_asymm h)⟩
  exact hm.1.eq_of_mem_iff hn.1 hcells

end Sys2Proof.Machine
end

section
/-! DRW (40_display.md R74, R76): the two loops of the blit toggle the pixels of one list, which holds each
pixel once, since a sprite is narrower and lower than the display. -/

namespace Sys2Proof.Machine

/-- The pixels under the set bits of a sprite of `h` rows, in the order in which the blit visits them. -/
def spritePixels (s : State) (ox oy h : Nat) : List (Fin 64 × Fin 32) :=
  (List.range h).flatMap fun r =>
    ((List.range 8).filter (spriteBit (s.mem.read (s.indexAddr r)))).map fun b =>
      (wrapX (ox + b), wrapY (oy + r))

/-- What the blit does to one pixel of that list. -/
def drawPixel (acc : Display × Bool) (p : Fin 64 × Fin 32) : Display × Bool :=
  (Display.toggle acc.1 p.1 p.2, acc.2 || Display.get acc.1 p.1 p.2)

theorem blit_eq_foldl_drawPixel (s : State) (ox oy h : Nat) :
    s.blit ox oy h = (spritePixels s ox oy h).foldl drawPixel (s.disp, false) := by
  simp only [spritePixels, List.foldl_flatMap, List.foldl_map, List.foldl_filter]
  rfl

theorem mem_spritePixels {s : State} {ox oy h : Nat} {px : Fin 64} {py : Fin 32} :
    (px, py) ∈ spritePixels s ox oy h ↔ SpriteCovers s ox oy h px py := by
  have hbit (row : Byte) {b : Nat} (hb : b < 8) : spriteBit row b = row.getLsbD (7 - b) := by
    simp [spriteBit, BitVec.getMsbD, hb]
  simp only [spritePixels, List.mem_flatMap, List.mem_range, List.mem_map, List.mem_filter,
    Prod.mk.injEq, Fin.ext_iff, wrapX, wrapY, SpriteCovers, State.indexAddr]
  refine exists_congr fun r => and_congr_right fun _ => exists_congr fun b => ?_
  constructor
  · rintro ⟨⟨hb, hset⟩, hx, hy⟩
    exact ⟨hb, hbit _ hb ▸ hset, hx.symm, hy.symm⟩
  · rintro ⟨hb, hset, hx, hy⟩
    exact ⟨⟨hb, (hbit _ hb).trans hset⟩, hx.symm, hy.symm⟩

theorem nodup_spritePixels (s : State) (ox oy : Nat) {h : Nat} (hh : h ≤ 32) :
    (spritePixels s ox oy h).Nodup := by
  refine List.nodup_flatMap.mpr ⟨fun r _ => ?row, ?rows⟩
  case row =>
    refine List.Nodup.map_on (fun b hb c hc hbc => ?_) (List.nodup_range.filter _)
    have hx : (ox + b) % 64 = (ox + c) % 64 := congrArg (fun p => p.1.val) hbc
    have hb8 := List.mem_range.mp (List.mem_of_mem_filter hb)
    have hc8 := List.mem_range.mp (List.mem_of_mem_filter hc)
    omega
  case rows =>
    refine List.nodup_range.imp_of_mem fun {r q} hr hq hrq p hpr hpq => ?_
    obtain ⟨b, -, hb⟩ := List.mem_map.mp hpr
    obtain ⟨c, -, hc⟩ := List.mem_map.mp hpq
    have hy : (oy + r) % 32 = (oy + q) % 32 := congrArg (fun p => p.2.val) (hb.trans hc.symm)
    have hr32 := List.mem_range.mp hr
    have hq32 := List.mem_range.mp hq
    omega

/-- Pixels that are drawn once each are flipped, and no draw of another pixel sees them change. -/
theorem foldl_drawPixel {l : List (Fin 64 × Fin 32)} (hl : l.Nodup) (d : Display) (c : Bool) :
    (∀ px py, Display.get (l.foldl drawPixel (d, c)).1 px py =
      if (px, py) ∈ l then !(Display.get d px py) else Display.get d px py) ∧
    (l.foldl drawPixel (d, c)).2 = (c || l.any fun p => Display.get d p.1 p.2) := by
  induction l generalizing d c with
  | nil => simp
  | cons p l ih =>
    obtain ⟨hp, hrest⟩ := List.nodup_cons.mp hl
    obtain ⟨hget, hflag⟩ := ih hrest (Display.toggle d p.1 p.2) (c || Display.get d p.1 p.2)
    have hother {q : Fin 64 × Fin 32} (hq : q ∈ l) :
        Display.get (Display.toggle d p.1 p.2) q.1 q.2 = Display.get d q.1 q.2 := by
      rw [Display.get_toggle, if_neg]
      rintro ⟨hx, hy⟩
      exact hp (Prod.ext hx hy ▸ hq)
    refine ⟨fun px py => (hget px py).trans ?_, hflag.trans ?_⟩
    · by_cases hin : (px, py) ∈ l
      · rw [if_pos hin, if_pos (List.mem_cons_of_mem _ hin), hother hin]
      · rw [if_neg hin, Display.get_toggle]
        exact if_congr (by simp [hin, Prod.ext_iff]) rfl rfl
    · have hany : (l.any fun q => Display.get (Display.toggle d p.1 p.2) q.1 q.2) =
          l.any fun q => Display.get d q.1 q.2 := by
        rw [Bool.eq_iff_iff, List.any_eq_true, List.any_eq_true]
        exact exists_congr fun q => and_congr_right fun hq => by rw [hother hq]
      rw [hany, List.any_cons, Bool.or_assoc]

/-- Settles O14: the covered pixels are those of the list, which a height below 16 keeps without repeats. -/
theorem drawFlipsExactlyTheSpritePixels : Obligations.DrawFlipsExactlyTheSpritePixels := by
  unfold Obligations.DrawFlipsExactlyTheSpritePixels
  intro x y n s
  have hheight : n.toNat ≤ 32 := by
    have := n.isLt
    omega
  obtain ⟨hget, hflag⟩ := foldl_drawPixel
    (nodup_spritePixels s (s.getV x).toNat (s.getV y).toNat hheight) s.disp false
  rw [← blit_eq_foldl_drawPixel] at hget hflag
  refine ⟨_, exec_drw x y n s, fun px py => ?flips, ?bit, ?collides, frame_drw s _ _⟩
  case flips =>
    rw [← mem_spritePixels]
    refine (not_congr (Eq.congr_left (hget px py))).trans ?_
    by_cases hin : (px, py) ∈ spritePixels s (s.getV x).toNat (s.getV y).toNat n.toNat <;>
      simp [hin, State.pixel]
  case bit =>
    rw [State.getV_setV_same]
    exact flagByte_eq_zero_or_one _
  case collides =>
    have hone (f : Bool) : flagByte f = 1 ↔ f = true := by cases f <;> decide
    rw [State.getV_setV_same, hone, hflag, Bool.false_or, List.any_eq_true, Prod.exists]
    simp only [mem_spritePixels, and_comm, State.pixel]

theorem spriteCovers_congr {s t : State} (hi : t.i = s.i) (hmem : ∀ a, t.mem.read a = s.mem.read a)
    (ox oy h : Nat) (px : Fin 64) (py : Fin 32) :
    SpriteCovers t ox oy h px py ↔ SpriteCovers s ox oy h px py := by
  simp only [SpriteCovers, hi, hmem]

/-- Settles O15: the first draw leaves what the second one reads, so both flip the same pixels, and a pixel
that the second turns off was 0 before the first. -/
theorem secondDrawRestoresTheDisplay : Obligations.SecondDrawRestoresTheDisplay := by
  unfold Obligations.SecondDrawRestoresTheDisplay
  intro x y n s hx hy
  obtain ⟨t, hst, hflip, -, -, hregs, hmem, hparts, -⟩ := drawFlipsExactlyTheSpritePixels x y n s
  obtain ⟨u, htu, hflip', -, hflag, -⟩ := drawFlipsExactlyTheSpritePixels x y n t
  have hcovers := spriteCovers_congr (hparts .index (by decide)) (fun a => hmem a List.not_mem_nil)
    (s.getV x).toNat (s.getV y).toNat n.toNat
  rw [hregs x (List.mem_singleton.not.mpr hx), hregs y (List.mem_singleton.not.mpr hy)] at hflip' hflag
  simp only [hcovers] at hflip' hflag
  refine ⟨t, u, hst, htu, fun px py => ?restored, hflag.trans ?collides⟩
  case restored =>
    have hbool : ∀ a b c : Bool, (b ≠ a ↔ c ≠ b) → c = a := by decide
    exact hbool _ _ _ ((hflip px py).trans (hflip' px py).symm)
  case collides =>
    refine exists_congr fun px => exists_congr fun py => and_congr_left fun hin => ?_
    have hbool : ∀ a b : Bool, b ≠ a → (b = true ↔ a = false) := by decide
    exact hbool _ _ ((hflip px py).mpr hin)

end Sys2Proof.Machine
end

section
/-! The image load and reset (20_memory.md R51; 10_state.md R38; 70_reset_and_hazards.md R131). -/

namespace Sys2Proof.Machine

theorem imageFits_iff (bytes : List Byte) : imageFits bytes = true ↔ bytes.length ≤ 3584 :=
  decide_eq_true_iff

/-- Settles O56: an image that fits is a run of bytes that ends at 0xFFF at the latest, so none of it
wraps. -/
theorem imageLoadPlacesTheBytes : Obligations.ImageLoadPlacesTheBytes := by
  unfold Obligations.ImageLoadPlacesTheBytes
  refine ⟨fun bytes s hlen => ⟨s.memWrite 0x200 bytes, if_pos ((imageFits_iff bytes).mpr hlen),
    fun k b hb => ?placed, fun a ha hout => ?others, rfl⟩, fun bytes s hlen => ?tooLarge, fun _ => rfl⟩
  case placed => exact s.mem.read_writeAll_of_getElem? 0x200 k b bytes (by omega) hb
  case others =>
    refine s.mem.read_writeAll_of_ne 0x200 a bytes fun k hk => ?_
    unfold maskAddr
    omega
  case tooLarge => exact if_neg fun hfits => absurd ((imageFits_iff bytes).mp hfits) (by omega)

theorem read_nil_of_le {a : Nat} (hfont : 80 ≤ a) (ha : a < 4096) : Memory.read [] a = 0 := by
  have hlen : defaultFontBytes.length ≤ a := hfont
  rw [Memory.read, maskAddr, Nat.mod_eq_of_lt ha]
  exact List.getD_eq_default _ _ hlen

/-- Settles O57: the font is a run of 80 bytes from address 0 on, over a memory that reads 0 behind it;
writing the default font over itself lists nothing. -/
theorem resetLeavesTheSpecifiedState : Obligations.ResetLeavesTheSpecifiedState := by
  unfold Obligations.ResetLeavesTheSpecifiedState
  refine ⟨fun c => ⟨fun r => ?regs, rfl, rfl, rfl, fun j => ?stack, rfl, rfl, fun px py => ?pixels,
    fun k => ?keys, rfl, rfl, rfl, fun k => ?font, fun a hfont ha => ?zeros⟩, ?default⟩
  case regs => exact Vector.getElem_replicate r.isLt
  case stack => exact Vector.getElem_replicate j.isLt
  case pixels => exact Display.get_clear px py
  case keys => exact Vector.getElem_replicate k.isLt
  case font =>
    have hread := Memory.read_writeAll_of_getElem? [] 0 k.val c.font[k.val] c.font.toList
      (by simp) (by simp)
    rwa [Nat.zero_add] at hread
  case zeros =>
    refine (Memory.read_writeAll_of_ne [] 0 a c.font.toList fun k hk => ?_).trans
      (read_nil_of_le hfont ha)
    rw [Vector.length_toList] at hk
    unfold maskAddr
    omega
  case default =>
    have hmem : Memory.writeAll [] 0 defaultFont.toList = [] := by decide
    simp only [hostReset, defaultSetup, hmem]
    rfl

end Sys2Proof.Machine
end
